-- ==== Sys2Proof/Word.lean ====
section
/-! DEFINITION. The word types of the machine: bytes, 16-bit words, 12-bit addresses, register indexes (spec 10_state.md, 30_encoding.md R40). -/

namespace Sys2Proof

/-- An 8-bit value: a general register, a timer, a memory cell, an immediate `NN`. -/
abbrev Byte := BitVec 8

/-- A 16-bit value: `I`, `pc`, a return address, an instruction word. -/
abbrev Word := BitVec 16

/-- The 12-bit address immediate `NNN`. -/
abbrev Addr := BitVec 12

/-- A register index 0..15, the operand fields `X` and `Y`. -/
abbrev RegIdx := Fin 16

/-- Bits the default decoding does not look at, one nibble of them. -/
abbrev Nibble := BitVec 4

end Sys2Proof
end

