-- ==== Sys2Proof/Syntax.lean ====
section
/-! DEFINITION. The 34 instructions of 30_encoding.md R46, one constructor a row of spec/opcode_table.json, in the table's order. -/

namespace Sys2Proof

/-- One instruction. `x` and `y` are the register fields, `nn`, `nnn` the immediates, `n` the row count (R40, R41).
`dc` holds the bits of the word that the default decoding does not look at (R44): the handler does not use them, and
they are kept so that a word and its instruction determine each other (log 7). -/
inductive Instr where
  /-- `00E0` CLS, clear-display; `dc` is `w[11:4]`. -/
  | cls (dc : BitVec 8)
  /-- `00EE` RET, return; `dc` is `w[11:4]`. -/
  | ret (dc : BitVec 8)
  /-- `1NNN` JP NNN, jump. -/
  | jp (nnn : Addr)
  /-- `2NNN` CALL NNN, call. -/
  | call (nnn : Addr)
  /-- `3XNN` SE Vx, NN, skip-if-equal-immediate. -/
  | seImm (x : RegIdx) (nn : Byte)
  /-- `4XNN` SNE Vx, NN, skip-if-not-equal-immediate. -/
  | sneImm (x : RegIdx) (nn : Byte)
  /-- `5XY0` SE Vx, Vy, skip-if-registers-equal; `dc` is `w[3:0]`. -/
  | seReg (x y : RegIdx) (dc : Nibble)
  /-- `6XNN` LD Vx, NN, load-immediate. -/
  | ldImm (x : RegIdx) (nn : Byte)
  /-- `7XNN` ADD Vx, NN, add-immediate. -/
  | addImm (x : RegIdx) (nn : Byte)
  /-- `8XY0` LD Vx, Vy, copy. -/
  | ldReg (x y : RegIdx)
  /-- `8XY1` OR Vx, Vy. -/
  | orReg (x y : RegIdx)
  /-- `8XY2` AND Vx, Vy. -/
  | andReg (x y : RegIdx)
  /-- `8XY3` XOR Vx, Vy. -/
  | xorReg (x y : RegIdx)
  /-- `8XY4` ADD Vx, Vy, add-with-carry. -/
  | addReg (x y : RegIdx)
  /-- `8XY5` SUB Vx, Vy, subtract-with-borrow. -/
  | subReg (x y : RegIdx)
  /-- `8XY6` SHR Vx, Vy, shift-right-with-flag. -/
  | shr (x y : RegIdx)
  /-- `8XY7` SUBN Vx, Vy, reverse-subtract-with-borrow. -/
  | subn (x y : RegIdx)
  /-- `8XYE` SHL Vx, Vy, shift-left-with-flag. -/
  | shl (x y : RegIdx)
  /-- `9XY0` SNE Vx, Vy, skip-if-registers-not-equal; `dc` is `w[3:0]`. -/
  | sneReg (x y : RegIdx) (dc : Nibble)
  /-- `ANNN` LD I, NNN, load-address-register. -/
  | ldI (nnn : Addr)
  /-- `BNNN` JP V0, NNN, jump-with-offset. -/
  | jpV0 (nnn : Addr)
  /-- `CXNN` RND Vx, NN, random-masked. -/
  | rnd (x : RegIdx) (nn : Byte)
  /-- `DXYN` DRW Vx, Vy, N, draw-sprite. -/
  | drw (x y : RegIdx) (n : Fin 16)
  /-- `EX9E` SKP Vx, skip-if-key-pressed; `dc` is `w[7:4]`. -/
  | skp (x : RegIdx) (dc : Nibble)
  /-- `EXA1` SKNP Vx, skip-if-key-not-pressed; `dc` is `w[7:4]`. -/
  | sknp (x : RegIdx) (dc : Nibble)
  /-- `FX07` LD Vx, DT, read-delay-timer; `dc` is `w[7:4]`. -/
  | ldVxDt (x : RegIdx) (dc : Nibble)
  /-- `FX0A` LD Vx, K, wait-for-keypress; `dc` is `w[7:4]`. -/
  | ldVxK (x : RegIdx) (dc : Nibble)
  /-- `FX15` LD DT, Vx, set-delay-timer. -/
  | ldDtVx (x : RegIdx)
  /-- `FX18` LD ST, Vx, set-sound-timer; `dc` is `w[7:4]`. -/
  | ldStVx (x : RegIdx) (dc : Nibble)
  /-- `FX1E` ADD I, Vx, add-to-address-register; `dc` is `w[7:4]`. -/
  | addIVx (x : RegIdx) (dc : Nibble)
  /-- `FX29` LD F, Vx, address-of-digit-sprite; `dc` is `w[7:4]`. -/
  | ldFVx (x : RegIdx) (dc : Nibble)
  /-- `FX33` LD B, Vx, store-bcd; `dc` is `w[7:4]`. -/
  | ldBVx (x : RegIdx) (dc : Nibble)
  /-- `FX55` LD [I], Vx, store-registers-to-memory. -/
  | ldMemVx (x : RegIdx)
  /-- `FX65` LD Vx, [I], load-registers-from-memory. -/
  | ldVxMem (x : RegIdx)
deriving DecidableEq, Repr

end Sys2Proof
end

