-- ==== Sys2Proof/WellFormed.lean ====
section
/-! DEFINITION. Which instructions a machine's decoder can give: all of them under default decoding (R44), the ones whose don't-care bits are the canonical ones under strict decoding (R45). -/

namespace Sys2Proof

/-- The bits the handler does not use are those of the canonical pattern (R45, R46 column "pattern"). -/
def Instr.canonical : Instr → Bool
  | .cls dc => dc == 0x0E
  | .ret dc => dc == 0x0E
  | .jp _ => true
  | .call _ => true
  | .seImm _ _ => true
  | .sneImm _ _ => true
  | .seReg _ _ dc => dc == 0x0
  | .ldImm _ _ => true
  | .addImm _ _ => true
  | .ldReg _ _ => true
  | .orReg _ _ => true
  | .andReg _ _ => true
  | .xorReg _ _ => true
  | .addReg _ _ => true
  | .subReg _ _ => true
  | .shr _ _ => true
  | .subn _ _ => true
  | .shl _ _ => true
  | .sneReg _ _ dc => dc == 0x0
  | .ldI _ => true
  | .jpV0 _ => true
  | .rnd _ _ => true
  | .drw _ _ _ => true
  | .skp _ dc => dc == 0x9
  | .sknp _ dc => dc == 0xA
  | .ldVxDt _ dc => dc == 0x0
  | .ldVxK _ dc => dc == 0x0
  | .ldDtVx _ => true
  | .ldStVx _ dc => dc == 0x1
  | .addIVx _ dc => dc == 0x1
  | .ldFVx _ dc => dc == 0x2
  | .ldBVx _ dc => dc == 0x3
  | .ldMemVx _ => true
  | .ldVxMem _ => true

/-- Well-formed for a decoder with `P_STRICT_DECODE = strict`. -/
def Instr.wellFormed (strict : Bool) (i : Instr) : Bool := !strict || i.canonical

end Sys2Proof
end

