-- ==== Sys2Proof/Decode.lean ====
section
/-! DEFINITION. Decoding (30_encoding.md R42 to R45), total on any bytes, rejecting by name; then the encoder, and the opcode map of R46 as a table. -/

namespace Sys2Proof

/-- Why bytes are no instruction. -/
inductive DecodeError where
  /-- Fewer than two bytes are left: an instruction is always two (R39). -/
  | truncated
  /-- The word matches no handler (R47). -/
  | invalidInstruction (w : Word)
deriving DecidableEq, Repr

/-- The field `w[hi:lo]` as a number, given its low bit and its width (R8). -/
def field (w : Word) (lo width : Nat) : Nat := w.toNat / 2 ^ lo % 2 ^ width

/-- The field `OP = w[15:12]` (R40). -/
def opField (w : Word) : Nat := field w 12 4

/-- The field `X = w[11:8]` (R40). -/
def xField (w : Word) : RegIdx := Fin.ofNat 16 (field w 8 4)

/-- The field `Y = w[7:4]` (R40). -/
def yField (w : Word) : RegIdx := Fin.ofNat 16 (field w 4 4)

/-- The field `N = w[3:0]` (R40). -/
def nField (w : Word) : Fin 16 := Fin.ofNat 16 (field w 0 4)

/-- The field `NN = w[7:0]` (R40). -/
def nnField (w : Word) : Byte := BitVec.ofNat 8 (field w 0 8)

/-- The field `NNN = w[11:0]` (R40). -/
def nnnField (w : Word) : Addr := BitVec.ofNat 12 (field w 0 12)

/-- The don't-care bits `w[7:4]`. -/
def dcMid (w : Word) : Nibble := BitVec.ofNat 4 (field w 4 4)

/-- The don't-care bits `w[3:0]`. -/
def dcLow (w : Word) : Nibble := BitVec.ofNat 4 (field w 0 4)

/-- The don't-care bits `w[11:4]`. -/
def dcWide (w : Word) : BitVec 8 := BitVec.ofNat 8 (field w 4 8)

/-- Family 0: the bottom nibble alone decides (R43). -/
def decodeFamily0 (w : Word) : Option Instr :=
  match field w 0 4 with
  | 0x0 => some (.cls (dcWide w))
  | 0xE => some (.ret (dcWide w))
  | _ => none

/-- Family 8, the register ALU (R42, R44). -/
def decodeFamily8 (w : Word) : Option Instr :=
  match field w 0 4 with
  | 0x0 => some (.ldReg (xField w) (yField w))
  | 0x1 => some (.orReg (xField w) (yField w))
  | 0x2 => some (.andReg (xField w) (yField w))
  | 0x3 => some (.xorReg (xField w) (yField w))
  | 0x4 => some (.addReg (xField w) (yField w))
  | 0x5 => some (.subReg (xField w) (yField w))
  | 0x6 => some (.shr (xField w) (yField w))
  | 0x7 => some (.subn (xField w) (yField w))
  | 0xE => some (.shl (xField w) (yField w))
  | _ => none

/-- Family E, the key skips (R42, R44). -/
def decodeFamilyE (w : Word) : Option Instr :=
  match field w 0 4 with
  | 0xE => some (.skp (xField w) (dcMid w))
  | 0x1 => some (.sknp (xField w) (dcMid w))
  | _ => none

/-- Family F with bottom nibble 5: bits 7..4 decide (R43). -/
def decodeFamilyF5 (w : Word) : Option Instr :=
  match field w 4 4 with
  | 0x1 => some (.ldDtVx (xField w))
  | 0x5 => some (.ldMemVx (xField w))
  | 0x6 => some (.ldVxMem (xField w))
  | _ => none

/-- Family F, the timer and memory-block instructions (R42, R44). -/
def decodeFamilyF (w : Word) : Option Instr :=
  match field w 0 4 with
  | 0x3 => some (.ldBVx (xField w) (dcMid w))
  | 0x5 => decodeFamilyF5 w
  | 0x7 => some (.ldVxDt (xField w) (dcMid w))
  | 0x8 => some (.ldStVx (xField w) (dcMid w))
  | 0x9 => some (.ldFVx (xField w) (dcMid w))
  | 0xA => some (.ldVxK (xField w) (dcMid w))
  | 0xE => some (.addIVx (xField w) (dcMid w))
  | _ => none

/-- Default decoding of one word (R44). -/
def decodeDefault (w : Word) : Option Instr :=
  match opField w with
  | 0x0 => decodeFamily0 w
  | 0x1 => some (.jp (nnnField w))
  | 0x2 => some (.call (nnnField w))
  | 0x3 => some (.seImm (xField w) (nnField w))
  | 0x4 => some (.sneImm (xField w) (nnField w))
  | 0x5 => some (.seReg (xField w) (yField w) (dcLow w))
  | 0x6 => some (.ldImm (xField w) (nnField w))
  | 0x7 => some (.addImm (xField w) (nnField w))
  | 0x8 => decodeFamily8 w
  | 0x9 => some (.sneReg (xField w) (yField w) (dcLow w))
  | 0xA => some (.ldI (nnnField w))
  | 0xB => some (.jpV0 (nnnField w))
  | 0xC => some (.rnd (xField w) (nnField w))
  | 0xD => some (.drw (xField w) (yField w) (nField w))
  | 0xE => decodeFamilyE w
  | 0xF => decodeFamilyF w
  | _ => none

/-- Decoding of one word under `P_STRICT_DECODE = strict` (R44, R45): strict decoding keeps the words whose unused
bits are canonical, with the same handler. -/
def decodeWord (strict : Bool) (w : Word) : Option Instr :=
  (decodeDefault w).filter (Instr.wellFormed strict)

/-- Two bytes make a word, the one at the lower address in bits 15..8 (R25). -/
def wordOfBytes (hi lo : Byte) : Word := BitVec.ofNat 16 (hi.toNat * 256 + lo.toNat)

/-- The byte of a word at the lower address (R25). -/
def highByte (w : Word) : Byte := BitVec.ofNat 8 (w.toNat / 256)

/-- The byte of a word at the higher address (R25). -/
def lowByte (w : Word) : Byte := BitVec.ofNat 8 (w.toNat % 256)

/-- The instruction at the head of a list of bytes, and the bytes after it. -/
def decode (strict : Bool) : List Byte → Except DecodeError (Instr × List Byte)
  | hi :: lo :: rest =>
    match decodeWord strict (wordOfBytes hi lo) with
    | some i => .ok (i, rest)
    | none => .error (.invalidInstruction (wordOfBytes hi lo))
  | [_] => .error .truncated
  | [] => .error .truncated

/-- A word from its four nibbles, the first in bits 15..12. -/
def nibbles (a b c d : Nat) : Word := BitVec.ofNat 16 (a * 4096 + b * 256 + c * 16 + d)

/-- The form `OP X NN`. -/
def formXNN (op : Nat) (x : RegIdx) (nn : Byte) : Word := BitVec.ofNat 16 (op * 4096 + x.val * 256 + nn.toNat)

/-- The form `OP NNN`. -/
def formNNN (op : Nat) (nnn : Addr) : Word := BitVec.ofNat 16 (op * 4096 + nnn.toNat)

/-- The form `0`, eight free bits, low nibble. -/
def formWide (dc : BitVec 8) (low : Nat) : Word := BitVec.ofNat 16 (dc.toNat * 16 + low)

/-- The word of an instruction, from the patterns of R46. -/
def encode : Instr → Word
  | .cls dc => formWide dc 0x0
  | .ret dc => formWide dc 0xE
  | .jp nnn => formNNN 0x1 nnn
  | .call nnn => formNNN 0x2 nnn
  | .seImm x nn => formXNN 0x3 x nn
  | .sneImm x nn => formXNN 0x4 x nn
  | .seReg x y dc => nibbles 0x5 x y dc.toNat
  | .ldImm x nn => formXNN 0x6 x nn
  | .addImm x nn => formXNN 0x7 x nn
  | .ldReg x y => nibbles 0x8 x y 0x0
  | .orReg x y => nibbles 0x8 x y 0x1
  | .andReg x y => nibbles 0x8 x y 0x2
  | .xorReg x y => nibbles 0x8 x y 0x3
  | .addReg x y => nibbles 0x8 x y 0x4
  | .subReg x y => nibbles 0x8 x y 0x5
  | .shr x y => nibbles 0x8 x y 0x6
  | .subn x y => nibbles 0x8 x y 0x7
  | .shl x y => nibbles 0x8 x y 0xE
  | .sneReg x y dc => nibbles 0x9 x y dc.toNat
  | .ldI nnn => formNNN 0xA nnn
  | .jpV0 nnn => formNNN 0xB nnn
  | .rnd x nn => formXNN 0xC x nn
  | .drw x y n => nibbles 0xD x y n
  | .skp x dc => nibbles 0xE x dc.toNat 0xE
  | .sknp x dc => nibbles 0xE x dc.toNat 0x1
  | .ldVxDt x dc => nibbles 0xF x dc.toNat 0x7
  | .ldVxK x dc => nibbles 0xF x dc.toNat 0xA
  | .ldDtVx x => nibbles 0xF x 0x1 0x5
  | .ldStVx x dc => nibbles 0xF x dc.toNat 0x8
  | .addIVx x dc => nibbles 0xF x dc.toNat 0xE
  | .ldFVx x dc => nibbles 0xF x dc.toNat 0x9
  | .ldBVx x dc => nibbles 0xF x dc.toNat 0x3
  | .ldMemVx x => nibbles 0xF x 0x5 0x5
  | .ldVxMem x => nibbles 0xF x 0x6 0x5

/-- The two bytes of an instruction as memory holds them (R25). -/
def encodeBytes (i : Instr) : List Byte := [highByte (encode i), lowByte (encode i)]

/-- The instruction the decoder reads from a row's bits as spec/opcode_table.json numbers them. Every row is one
16-bit word, stored big-endian. The parameters are the defaults (R7). -/
def decodeTableWord (nbits w : Nat) : Option Instr :=
  match decode false [highByte (BitVec.ofNat 16 (w % 2 ^ nbits)), lowByte (BitVec.ofNat 16 (w % 2 ^ nbits))] with
  | .ok (i, _) => some i
  | .error _ => none

/-- The number of an instruction's row in the opcode map (R46, column "#"). -/
def Instr.row : Instr → Nat
  | .cls _ => 1
  | .ret _ => 2
  | .jp _ => 3
  | .call _ => 4
  | .seImm _ _ => 5
  | .sneImm _ _ => 6
  | .seReg _ _ _ => 7
  | .ldImm _ _ => 8
  | .addImm _ _ => 9
  | .ldReg _ _ => 10
  | .orReg _ _ => 11
  | .andReg _ _ => 12
  | .xorReg _ _ => 13
  | .addReg _ _ => 14
  | .subReg _ _ => 15
  | .shr _ _ => 16
  | .subn _ _ => 17
  | .shl _ _ => 18
  | .sneReg _ _ _ => 19
  | .ldI _ => 20
  | .jpV0 _ => 21
  | .rnd _ _ => 22
  | .drw _ _ _ => 23
  | .skp _ _ => 24
  | .sknp _ _ => 25
  | .ldVxDt _ _ => 26
  | .ldVxK _ _ => 27
  | .ldDtVx _ => 28
  | .ldStVx _ _ => 29
  | .addIVx _ _ => 30
  | .ldFVx _ _ => 31
  | .ldBVx _ _ => 32
  | .ldMemVx _ => 33
  | .ldVxMem _ => 34

/-- One row of the opcode map (R46): its number and the default and strict mask and match. -/
structure OpcodeRow where
  number      : Nat
  mask        : Word
  matchBits   : Word
  maskStrict  : Word
  matchStrict : Word
deriving DecidableEq, Repr

/-- A word selects a row when `(w & mask) == match` (R46). -/
def OpcodeRow.selects (strict : Bool) (r : OpcodeRow) (w : Word) : Bool :=
  if strict then w &&& r.maskStrict == r.matchStrict else w &&& r.mask == r.matchBits

/-- The opcode map of R46, transcribed from its table and used by no definition of the machine: the decoder is
written from R44, and the two are compared. -/
def opcodeTable : List OpcodeRow :=
  [⟨1, 0xF00F, 0x0000, 0xFFFF, 0x00E0⟩, ⟨2, 0xF00F, 0x000E, 0xFFFF, 0x00EE⟩, ⟨3, 0xF000, 0x1000, 0xF000, 0x1000⟩,
   ⟨4, 0xF000, 0x2000, 0xF000, 0x2000⟩, ⟨5, 0xF000, 0x3000, 0xF000, 0x3000⟩, ⟨6, 0xF000, 0x4000, 0xF000, 0x4000⟩] ++
  [⟨7, 0xF000, 0x5000, 0xF00F, 0x5000⟩, ⟨8, 0xF000, 0x6000, 0xF000, 0x6000⟩, ⟨9, 0xF000, 0x7000, 0xF000, 0x7000⟩,
   ⟨10, 0xF00F, 0x8000, 0xF00F, 0x8000⟩, ⟨11, 0xF00F, 0x8001, 0xF00F, 0x8001⟩, ⟨12, 0xF00F, 0x8002, 0xF00F, 0x8002⟩] ++
  [⟨13, 0xF00F, 0x8003, 0xF00F, 0x8003⟩, ⟨14, 0xF00F, 0x8004, 0xF00F, 0x8004⟩, ⟨15, 0xF00F, 0x8005, 0xF00F, 0x8005⟩,
   ⟨16, 0xF00F, 0x8006, 0xF00F, 0x8006⟩, ⟨17, 0xF00F, 0x8007, 0xF00F, 0x8007⟩, ⟨18, 0xF00F, 0x800E, 0xF00F, 0x800E⟩] ++
  [⟨19, 0xF000, 0x9000, 0xF00F, 0x9000⟩, ⟨20, 0xF000, 0xA000, 0xF000, 0xA000⟩, ⟨21, 0xF000, 0xB000, 0xF000, 0xB000⟩,
   ⟨22, 0xF000, 0xC000, 0xF000, 0xC000⟩, ⟨23, 0xF000, 0xD000, 0xF000, 0xD000⟩, ⟨24, 0xF00F, 0xE00E, 0xF0FF, 0xE09E⟩] ++
  [⟨25, 0xF00F, 0xE001, 0xF0FF, 0xE0A1⟩, ⟨26, 0xF00F, 0xF007, 0xF0FF, 0xF007⟩, ⟨27, 0xF00F, 0xF00A, 0xF0FF, 0xF00A⟩,
   ⟨28, 0xF0FF, 0xF015, 0xF0FF, 0xF015⟩, ⟨29, 0xF00F, 0xF008, 0xF0FF, 0xF018⟩, ⟨30, 0xF00F, 0xF00E, 0xF0FF, 0xF01E⟩] ++
  [⟨31, 0xF00F, 0xF009, 0xF0FF, 0xF029⟩, ⟨32, 0xF00F, 0xF003, 0xF0FF, 0xF033⟩, ⟨33, 0xF0FF, 0xF055, 0xF0FF, 0xF055⟩,
   ⟨34, 0xF0FF, 0xF065, 0xF0FF, 0xF065⟩]

end Sys2Proof
end

