-- ==== Sys2Proof/Config.lean ====
section
/-! DEFINITION. What an implementation fixes: the sizes of 00_scope.md R7, the parameters R7 leaves to the implementation, the font table of R89, and the free value of RND. -/

namespace Sys2Proof

/-- `P_SHIFT_SOURCE` (R7, D5): which register SHR and SHL shift. -/
inductive ShiftSource where
  | y
  | x
deriving DecidableEq, Repr

/-- `P_BORROW_POLARITY` (R7, R72, D4): what the flag says of a borrow. -/
inductive BorrowPolarity where
  | noBorrowIsOne
  | borrowIsOne
deriving DecidableEq, Repr

/-- `P_DRAW_OFFSCREEN` (R7, R58, D8): what a set sprite bit off the 64x32 grid does. -/
inductive OffscreenMode where
  | fault
  | clip
  | wrap
deriving DecidableEq, Repr

namespace Config

/-- `MEM_SIZE` (R7). -/
abbrev memSize : Nat := 4096

/-- `STACK_DEPTH` (R7). -/
abbrev stackDepth : Nat := 12

/-- `PROGRAM_BASE` (R7): the reset `pc` and where the image goes. -/
abbrev programBase : Nat := 0x200

/-- `MAX_IMAGE` (R7, R124). -/
abbrev maxImage : Nat := 3583

/-- `JUMP_MIN` (R7): the lowest target jump and call accept. -/
abbrev jumpMin : Nat := 0x200

/-- `FONT_BASE` (R7). -/
abbrev fontBase : Nat := 0x000

/-- `FONT_GLYPH_BYTES` (R7). -/
abbrev fontGlyphBytes : Nat := 5

/-- The flag register `x[15]` (`FLAG_REG`, R7). -/
abbrev flagReg : RegIdx := 15

/-- The default bytes of `FONT` (R89), glyph by glyph. -/
def fontBytes : List Byte :=
  [0xF0, 0x90, 0x90, 0x90, 0xF0] ++ [0x20, 0x60, 0x20, 0x20, 0x70] ++
  [0xF0, 0x10, 0xF0, 0x80, 0xF0] ++ [0xF0, 0x10, 0xF0, 0x10, 0xF0] ++
  [0x90, 0x90, 0xF0, 0x10, 0x10] ++ [0xF0, 0x80, 0xF0, 0x10, 0xF0] ++
  [0xF0, 0x80, 0xF0, 0x90, 0xF0] ++ [0xF0, 0x10, 0x20, 0x40, 0x40] ++
  [0xF0, 0x90, 0xF0, 0x90, 0xF0] ++ [0xF0, 0x90, 0xF0, 0x10, 0xF0] ++
  [0xF0, 0x90, 0xF0, 0x90, 0x90] ++ [0xE0, 0x90, 0xE0, 0x90, 0xE0] ++
  [0xF0, 0x80, 0x80, 0x80, 0xF0] ++ [0xE0, 0x90, 0x90, 0x90, 0xE0] ++
  [0xF0, 0x80, 0xF0, 0x80, 0xF0] ++ [0xF0, 0x80, 0xF0, 0x80, 0x80]

/-- `FONT[0..79]`, its default value (R7, R89, D25). -/
def font : Vector Byte 80 := ⟨⟨fontBytes⟩, rfl⟩

/-- The free value of RND (R85, D21; log 2): the byte the `n`-th oracle draw gives. It has no body, so no proof can
see a value of it: what is proved of it holds for every generator. -/
opaque randomByte : Nat → Byte

end Config

/-- The parameters R7 lets an implementation choose, fixed for one machine (log 1). -/
structure Params where
  shiftSource    : ShiftSource
  borrowPolarity : BorrowPolarity
  strictDecode   : Bool
  drawOffscreen  : OffscreenMode
  font           : Vector Byte 80
deriving DecidableEq, Repr

/-- The defaults of R7. -/
def Params.default : Params where
  shiftSource    := .y
  borrowPolarity := .noBorrowIsOne
  strictDecode   := false
  drawOffscreen  := .fault
  font           := Config.font

end Sys2Proof
end

