-- ==== Sys2Proof/Machine/State.lean ====
section
/-! DEFINITION. The machine state of 10_state.md R11 as plain data, the fault kinds of 60_exceptions.md R99, the refusals, and the state after reset (70_reset_and_hazards.md R122). -/

namespace Sys2Proof.Machine

/-- The space an undefined access falls outside of, with the offending value (R104). -/
inductive AccessSite where
  /-- A byte address, 4096 or above. -/
  | memory (addr : Nat)
  /-- A set sprite bit's pixel, off the 64x32 grid. -/
  | display (px py : Nat)
  /-- A key number above 15. -/
  | key (k : Nat)
deriving DecidableEq, Repr

/-- The five fault kinds, each with its info (R99). The spec describes what taking a fault does (R106), so every one
of them is TAKEN: it ends up in `State.run` of a next state, and no step answers `Host.Outcome.fault` (log 3). -/
inductive Fault where
  /-- Raised by `step` for a word no handler matches (R100). Safe: nothing of the instruction runs. -/
  | invalidInstruction
  /-- Raised by JP and CALL for a target below 0x200 (R101). Safe: the jump does not happen. -/
  | invalidJumpTarget (target : Addr)
  /-- Raised by CALL on a full stack (R102). Safe: nothing is pushed. -/
  | stackOverflow (sp : Nat)
  /-- Raised by RET on an empty stack (R103). Safe: nothing is popped. -/
  | stackUnderflow (sp : Nat)
  /-- Raised by the fetch, DRW, LD B, LD [I], LD Vx,[I], SKP and SKNP for a value out of range (R104). Safe: the
  source gives such an access no meaning, and nothing of the instruction happens. -/
  | undefinedAccess (site : AccessSite)
deriving DecidableEq, Repr

/-- The reasons for a refusal. -/
inductive Refusal where
  /-- Raised by an arm of `exec` for an instruction without a meaning (none is left). Safe. -/
  | notModelled (mnemonic : String)
  /-- Raised by `hostAct` for a delivery of `k > 15`, which is no move of the host (R114, U9). Safe. -/
  | illegalKeyDelivery (k : Nat)
deriving DecidableEq, Repr

/-- The fault record `{kind, word, pc, fetch_addr, info}` (R105); `fault` is the kind with its info. -/
structure FaultRecord where
  fault     : Fault
  word      : Option Word
  pc        : Word
  fetchAddr : Word
deriving DecidableEq, Repr

/-- The wait state `W` (R21). -/
inductive WaitState where
  | none
  | awaiting (x : RegIdx)
deriving DecidableEq, Repr

/-- The run state `RUN` (R22). -/
inductive RunState where
  | running
  | halted (f : FaultRecord)
deriving DecidableEq, Repr

/-- What a step reports to the host (R49). -/
inductive Status where
  | continue
  | awaitingKey
  | halted (f : FaultRecord)
deriving DecidableEq, Repr

/-- Memory: cells with strictly rising addresses, none equal to what its address reads as when unlisted (log 5). -/
abbrev Memory := List Host.Cell

/-- The register file `x[0..15]` (R13). -/
abbrev RegFile := Vector Byte 16

/-- The display buffer: 32 rows of 64 pixels (R19). -/
abbrev Display := Vector (Vector Bool 64) 32

/-- A pixel on the grid: column, then row (R19). -/
abbrev Pixel := Fin 64 × Fin 32

/-- The keypad state `Key[0..15]` (R20). -/
abbrev Keypad := Vector Bool 16

/-- The machine state (R11). `stack` holds the newest return address first, `SP` is its length (R17; log 6). `params`
(log 1) and `draws` (log 2) are the model's own fields, not the spec's. -/
structure State where
  mem     : Memory
  regs    : RegFile
  I       : Word
  pc      : Word
  stack   : List Word
  DT      : Byte
  ST      : Byte
  display : Display
  keys    : Keypad
  wait    : WaitState
  run     : RunState
  params  : Params
  draws   : Nat
deriving DecidableEq, Repr

/-- What a step or a meaning answers. -/
abbrev Result := Host.Outcome State Fault Refusal

/-- The display with every pixel 0. -/
def Display.clear : Display := Vector.replicate 32 (Vector.replicate 64 false)

/-- The state `reset([])` leaves with the default parameters (R122): the font is what unlisted low memory reads as. -/
def State.reset : State where
  mem     := []
  regs    := Vector.replicate 16 0x00
  I       := 0x0000
  pc      := 0x0200
  stack   := []
  DT      := 0x00
  ST      := 0x00
  display := Display.clear
  keys    := Vector.replicate 16 false
  wait    := .none
  run     := .running
  params  := Params.default
  draws   := 0

end Sys2Proof.Machine
end

