-- ==== Sys2Proof/Machine/Ops.lean ====
section
/-! DEFINITION. The named operations over memory, registers, stack, display and pc, and taking a fault (20_memory.md, 42_control.md R59 to R61, 60_exceptions.md R106). -/

namespace Sys2Proof.Machine

/-- What a byte of memory that no cell lists reads as: its reset contents, the font at 0x000 and zero elsewhere
(R12, R122, R123; log 5). -/
def unlistedByte (a : Nat) : Byte := Config.fontBytes[a]?.getD 0x00

/-- The byte at an address (R32). -/
def Memory.read (a : Nat) : Memory → Byte
  | [] => unlistedByte a
  | (b, v) :: rest => if a = b then v else Memory.read a rest

/-- The memory after a byte is written, in canonical form again (R35). -/
def Memory.write (a : Nat) (v : Byte) : Memory → Memory
  | [] => if v = unlistedByte a then [] else [(a, v)]
  | (b, u) :: rest =>
    if a < b then
      if v = unlistedByte a then (b, u) :: rest else (a, v) :: (b, u) :: rest
    else if a = b then
      if v = unlistedByte a then rest else (a, v) :: rest
    else (b, u) :: Memory.write a v rest

/-- Canonical from an address on: rising addresses below 4096, no cell that says what the unlisted byte says. -/
def Memory.wfFrom : Nat → Memory → Bool
  | _, [] => true
  | lo, (a, v) :: rest =>
    decide (lo ≤ a) && decide (a < Config.memSize) && (v != unlistedByte a) && Memory.wfFrom (a + 1) rest

/-- The canonical form of memory (log 5). -/
def Memory.wf (m : Memory) : Bool := Memory.wfFrom 0 m

/-- The first of the `len` byte addresses from `base` on that lies outside memory, if one does (R30). Addresses are
natural numbers and do not wrap. -/
def firstOutside (base len : Nat) : Option Nat :=
  if len = 0 ∨ base + len ≤ Config.memSize then none else some (max base Config.memSize)

/-- The `len` bytes from `base` on, in ascending order (R26). -/
def Memory.readBytes (m : Memory) (base : Nat) : Nat → List Byte
  | 0 => []
  | len + 1 => m.read base :: Memory.readBytes m (base + 1) len

/-- The memory after the bytes are written from `base` on, in ascending order (R26, R34). -/
def Memory.writeBytes (base : Nat) : List Byte → Memory → Memory
  | [], m => m
  | v :: rest, m => Memory.writeBytes (base + 1) rest (m.write base v)

/-- Read of `x[r]` (R13). -/
def State.reg (s : State) (r : RegIdx) : Byte := s.regs[r]

/-- Write of `x[r]` (R13). -/
def State.setReg (s : State) (r : RegIdx) (v : Byte) : State := { s with regs := s.regs.set r v }

/-- The registers `x[0..count-1]`, the ones a block transfer moves (R91). -/
def RegFile.block (regs : RegFile) (count : Nat) : List Byte := regs.toList.take count

/-- The registers after the bytes are written to `x[k]`, `x[k+1]` and so on (R92). -/
def RegFile.load (k : Nat) : List Byte → RegFile → RegFile
  | [], regs => regs
  | v :: rest, regs => RegFile.load (k + 1) rest (regs.setIfInBounds k v)

/-- Write of all registers. -/
def State.setRegs (s : State) (regs : RegFile) : State := { s with regs := regs }

/-- Write of memory. -/
def State.setMem (s : State) (m : Memory) : State := { s with mem := m }

/-- Write of `I`, reduced mod 2^16 (R15, D28). -/
def State.setI (s : State) (v : Nat) : State := { s with I := BitVec.ofNat 16 v }

/-- Write of `pc`, reduced mod 2^16 (R16). -/
def State.setPc (s : State) (target : Nat) : State := { s with pc := BitVec.ofNat 16 target }

/-- The advance of the dispatcher (R53). -/
def State.advance (s : State) : State := s.setPc (s.pc.toNat + 2)

/-- Write of the delay timer (R96). -/
def State.setDT (s : State) (v : Byte) : State := { s with DT := v }

/-- Write of the sound timer (R97). -/
def State.setST (s : State) (v : Byte) : State := { s with ST := v }

/-- Write of the display buffer (R19). -/
def State.setDisplay (s : State) (d : Display) : State := { s with display := d }

/-- Write of the keypad state, the host's alone (R113). -/
def State.setKeys (s : State) (ks : Keypad) : State := { s with keys := ks }

/-- Write of the wait state (R21). -/
def State.setWait (s : State) (w : WaitState) : State := { s with wait := w }

/-- Write of the run state (R22). -/
def State.setRun (s : State) (r : RunState) : State := { s with run := r }

/-- The next oracle byte (R85, D21; log 2). -/
def State.oracleByte (s : State) : Byte := Config.randomByte s.draws

/-- One oracle draw is used up (log 2). -/
def State.drawn (s : State) : State := { s with draws := s.draws + 1 }

/-- The stack pointer (R17). -/
def State.sp (s : State) : Nat := s.stack.length

/-- `stack[k]`, counted from the oldest entry, for `k < SP` (R17). -/
def State.stackEntry (s : State) (k : Nat) : Option Word := s.stack.reverse[k]?

/-- The stack after the write half of `Push(a)` (R59). -/
def State.pushed (s : State) (a : Word) : State := { s with stack := a :: s.stack }

/-- The stack after the write half of `Pop()` (R60). -/
def State.popped (s : State) : State := { s with stack := s.stack.tail }

/-- Pixel `Pix(x, y)` of a display (R19). -/
def Display.pix (d : Display) (p : Pixel) : Bool := d[p.2][p.1]

/-- The display after `Pix(x, y) <- Pix(x, y) XOR 1` (R58). -/
def Display.toggle (d : Display) (p : Pixel) : Display := d.set p.2 (d[p.2].set p.1 (!d[p.2][p.1]))

/-- TAKING A FAULT (R106), the one operation: `RUN <- HALTED(f)` and nothing else. `pc` in the record is its value
now (R105). There is no return from a fault (R107); only reset leaves the halted state (R125). -/
def takeFault (f : Fault) (word : Option Word) (fetchAddr : Word) (s : State) : Result :=
  .next (s.setRun (.halted { fault := f, word := word, pc := s.pc, fetchAddr := fetchAddr }))

/-- The address of the instruction that is executing: `pc` was advanced by 2 before (R53, R105; log 8). -/
def State.instrAddr (s : State) : Word := s.pc - 2

/-- A fault a handler raises (R55, R105): the record holds the raw word. -/
def raise (i : Instr) (f : Fault) (s : State) : Result := takeFault f (some (encode i)) s.instrAddr s

/-- The instruction word at `pc`, or the first address the fetch may not read (R31, R52). -/
def State.fetch (s : State) : Except Nat Word :=
  match firstOutside s.pc.toNat 2 with
  | some a => .error a
  | none => .ok (wordOfBytes (s.mem.read s.pc.toNat) (s.mem.read (s.pc.toNat + 1)))

/-- What a step that leaves this state reports: CONTINUE, AWAITING_KEY or HALTED(f) (R49, R55, R56; log 4). -/
def State.status (s : State) : Status :=
  match s.run, s.wait with
  | .halted f, _ => .halted f
  | .running, .awaiting _ => .awaitingKey
  | .running, .none => .continue

/-- The numeric code of a fault kind (R99, D34). -/
def Fault.code : Fault → Nat
  | .invalidInstruction => 1
  | .invalidJumpTarget _ => 2
  | .stackOverflow _ => 3
  | .stackUnderflow _ => 4
  | .undefinedAccess _ => 5

end Sys2Proof.Machine
end

