-- ==== Sys2Proof/Machine/Operands.lean ====
section
/-! DEFINITION. The operand forms: skips, the key number, the shift source, address operands, and the sprite of DRW (30_encoding.md R41, 41_display.md R58). -/

namespace Sys2Proof.Machine

/-- A skip: 2 more on the already advanced `pc` when the condition holds (R61, R127). -/
def skipIf (c : Bool) (s : State) : State := if c then s.advance else s

/-- `NNN` zero-extended (R41). -/
def addrOperand (nnn : Addr) : Nat := nnn.toNat

/-- The target of jump-with-offset, `NNN + x[0]` (R69). -/
def offsetTarget (s : State) (nnn : Addr) : Nat := nnn.toNat + (s.reg 0).toNat

/-- The key a register names, if it names one (R93, D11). -/
def keyOperand (s : State) (x : RegIdx) : Option (Fin 16) :=
  if h : (s.reg x).toNat < 16 then some ⟨(s.reg x).toNat, h⟩ else none

/-- `Key[k]` (R20). -/
def State.key (s : State) (k : Fin 16) : Bool := s.keys[k]

/-- The source operand of SHR and SHL (R82, R84, D5). -/
def shiftSource (s : State) (x y : RegIdx) : Byte :=
  match s.params.shiftSource with
  | .y => s.reg y
  | .x => s.reg x

/-- The three decimal digits of a byte: hundreds, tens, units (R90). -/
def bcdDigits (v : Byte) : List Byte :=
  [BitVec.ofNat 8 (v.toNat / 100), BitVec.ofNat 8 (v.toNat / 10 % 10), BitVec.ofNat 8 (v.toNat % 10)]

/-- The bit indexes of a sprite row that are 1, bit index 0 the most significant bit (R58, D10). -/
def spriteBits (row : Byte) : List Nat := (List.range 8).filter (fun b => row.getMsbD b)

/-- The list `T` of R58 before the off-screen rule: the set bits' coordinates, row by row. -/
def spriteTargets (vx : Nat) : Nat → List Byte → List (Nat × Nat)
  | _, [] => []
  | vy, row :: rows => (spriteBits row).map (fun b => (vx + b, vy)) ++ spriteTargets vx (vy + 1) rows

/-- A coordinate on the 64x32 grid as a pixel. -/
def onGrid (p : Nat × Nat) : Option Pixel :=
  if h : p.1 < 64 ∧ p.2 < 32 then some (⟨p.1, h.1⟩, ⟨p.2, h.2⟩) else none

/-- A coordinate reduced to the grid (R58, WRAP). -/
def wrapped (p : Nat × Nat) : Pixel := (Fin.ofNat 64 p.1, Fin.ofNat 32 p.2)

/-- `P_DRAW_OFFSCREEN` applied to `T` (R58, D8): the pixels to draw, or the first coordinate off the grid. -/
def placeTargets (mode : OffscreenMode) (targets : List (Nat × Nat)) : Except (Nat × Nat) (List Pixel) :=
  match mode with
  | .fault =>
    match targets.find? (fun p => (onGrid p).isNone) with
    | some p => .error p
    | none => .ok (targets.filterMap onGrid)
  | .clip => .ok (targets.filterMap onGrid)
  | .wrap => .ok (targets.map wrapped)

/-- The sprite rows DRW reads, `N` bytes from `I` on (R58). -/
def spriteRows (s : State) (n : Fin 16) : List Byte := s.mem.readBytes s.I.toNat n.val

/-- The pixels a DRW draws to, or the first coordinate off the grid (R58). The coordinates are read before anything
is written (D9). -/
def drawTargets (s : State) (x y : RegIdx) (n : Fin 16) : Except (Nat × Nat) (List Pixel) :=
  placeTargets s.params.drawOffscreen (spriteTargets (s.reg x).toNat (s.reg y).toNat (spriteRows s n))

/-- The drawing loop of R58: toggles the pixels in order, and whether one of them was set. -/
def drawPixels : List Pixel → Display → Bool → Display × Bool
  | [], d, collision => (d, collision)
  | p :: ps, d, collision => drawPixels ps (d.toggle p) (collision || d.pix p)

end Sys2Proof.Machine
end

