-- ==== Sys2Proof/Machine/AddressMemory.lean ====
section
/-! DEFINITION. The address register, font and memory block instructions (44_address_memory.md). Every check comes before every write (40_dispatch.md R55). -/

namespace Sys2Proof.Machine

/-- LD I, NNN (R86). -/
def execLdI (nnn : Addr) (s : State) : Result := .next (s.setI (addrOperand nnn))

/-- ADD I, Vx (R87): mod 2^16, no flag. -/
def execAddIVx (x : RegIdx) (s : State) : Result := .next (s.setI (s.I.toNat + (s.reg x).toNat))

/-- LD F, Vx (R88): the full register value (D12). -/
def execLdFVx (x : RegIdx) (s : State) : Result :=
  .next (s.setI (Config.fontBase + Config.fontGlyphBytes * (s.reg x).toNat))

/-- LD B, Vx (R90). -/
def execLdBVx (x : RegIdx) (dc : Nibble) (s : State) : Result :=
  match firstOutside s.I.toNat 3 with
  | some a => raise (.ldBVx x dc) (.undefinedAccess (.memory a)) s
  | none => .next (s.setMem (s.mem.writeBytes s.I.toNat (bcdDigits (s.reg x))))

/-- LD [I], Vx (R91). -/
def execLdMemVx (x : RegIdx) (s : State) : Result :=
  match firstOutside s.I.toNat (x.val + 1) with
  | some a => raise (.ldMemVx x) (.undefinedAccess (.memory a)) s
  | none => .next ((s.setMem (s.mem.writeBytes s.I.toNat (s.regs.block (x.val + 1)))).setI (s.I.toNat + x.val + 1))

/-- LD Vx, [I] (R92). -/
def execLdVxMem (x : RegIdx) (s : State) : Result :=
  match firstOutside s.I.toNat (x.val + 1) with
  | some a => raise (.ldVxMem x) (.undefinedAccess (.memory a)) s
  | none =>
    .next ((s.setRegs (s.regs.load 0 (s.mem.readBytes s.I.toNat (x.val + 1)))).setI (s.I.toNat + x.val + 1))

end Sys2Proof.Machine
end

