-- ==== Sys2Proof/Machine/Flags.lean ====
section
/-! DEFINITION. Every computation of the flag `x[15]`, and the order in which result and flag are written (43_alu.md R72, R73). -/

namespace Sys2Proof.Machine

/-- A flag bit as the byte `x[15]` holds. -/
def flagByte (b : Bool) : Byte := if b then 1 else 0

/-- The carry of an 8-bit addition (R80). -/
def carryOut (a b : Byte) : Bool := decide (255 < a.toNat + b.toNat)

/-- `borrowFlag(m, s)`, minuend then subtrahend (R72). -/
def borrowFlag (p : BorrowPolarity) (m s : Byte) : Bool :=
  match p with
  | .noBorrowIsOne => !decide (m.toNat < s.toNat)
  | .borrowIsOne => decide (m.toNat < s.toNat)

/-- The bit SHR shifts out (R82). -/
def shiftedOutRight (v : Byte) : Bool := v.getLsbD 0

/-- The bit SHL shifts out (R84). -/
def shiftedOutLeft (v : Byte) : Bool := v.getLsbD 7

/-- Result first, flag last (R73): with `X = 15` the flag wins. -/
def writeResultFlag (x : RegIdx) (result : Byte) (flag : Bool) (s : State) : State :=
  (s.setReg x result).setReg Config.flagReg (flagByte flag)

end Sys2Proof.Machine
end

