-- ==== Sys2Proof/Machine/Alu.lean ====
section
/-! DEFINITION. The 8-bit ALU and register operations (43_alu.md). -/

namespace Sys2Proof.Machine

/-- LD Vx, NN (R74). -/
def execLdImm (x : RegIdx) (nn : Byte) (s : State) : Result := .next (s.setReg x nn)

/-- ADD Vx, NN (R75): no carry flag. -/
def execAddImm (x : RegIdx) (nn : Byte) (s : State) : Result := .next (s.setReg x (s.reg x + nn))

/-- LD Vx, Vy (R76). -/
def execLdReg (x y : RegIdx) (s : State) : Result := .next (s.setReg x (s.reg y))

/-- OR Vx, Vy (R77): the flag is unchanged (D6). -/
def execOrReg (x y : RegIdx) (s : State) : Result := .next (s.setReg x (s.reg x ||| s.reg y))

/-- AND Vx, Vy (R78). -/
def execAndReg (x y : RegIdx) (s : State) : Result := .next (s.setReg x (s.reg x &&& s.reg y))

/-- XOR Vx, Vy (R79). -/
def execXorReg (x y : RegIdx) (s : State) : Result := .next (s.setReg x (s.reg x ^^^ s.reg y))

/-- ADD Vx, Vy (R80). -/
def execAddReg (x y : RegIdx) (s : State) : Result :=
  .next (writeResultFlag x (s.reg x + s.reg y) (carryOut (s.reg x) (s.reg y)) s)

/-- SUB Vx, Vy (R81): minuend `x[X]`. -/
def execSubReg (x y : RegIdx) (s : State) : Result :=
  .next (writeResultFlag x (s.reg x - s.reg y) (borrowFlag s.params.borrowPolarity (s.reg x) (s.reg y)) s)

/-- SHR Vx, Vy (R82). -/
def execShr (x y : RegIdx) (s : State) : Result :=
  .next (writeResultFlag x (shiftSource s x y >>> 1) (shiftedOutRight (shiftSource s x y)) s)

/-- SUBN Vx, Vy (R83): minuend `x[Y]`. -/
def execSubn (x y : RegIdx) (s : State) : Result :=
  .next (writeResultFlag x (s.reg y - s.reg x) (borrowFlag s.params.borrowPolarity (s.reg y) (s.reg x)) s)

/-- SHL Vx, Vy (R84). -/
def execShl (x y : RegIdx) (s : State) : Result :=
  .next (writeResultFlag x (shiftSource s x y <<< 1) (shiftedOutLeft (shiftSource s x y)) s)

/-- RND Vx, NN for a given drawn byte (R85). -/
def rndWith (r : Byte) (x : RegIdx) (nn : Byte) (s : State) : State := s.drawn.setReg x (r &&& nn)

/-- RND Vx, NN (R85): the byte is the oracle's (D21; log 2). -/
def execRnd (x : RegIdx) (nn : Byte) (s : State) : Result := .next (rndWith s.oracleByte x nn s)

end Sys2Proof.Machine
end

