-- ==== Sys2Proof/Machine/Control.lean ====
section
/-! DEFINITION. Control flow and the call stack (42_control.md). `pc` is already advanced. -/

namespace Sys2Proof.Machine

/-- RET (R62), with `Pop()` (R60). -/
def execRet (dc : BitVec 8) (s : State) : Result :=
  match s.stack with
  | [] => raise (.ret dc) (.stackUnderflow s.sp) s
  | a :: _ => .next (s.popped.setPc a.toNat)

/-- JP NNN (R63). -/
def execJp (nnn : Addr) (s : State) : Result :=
  if addrOperand nnn < Config.jumpMin then raise (.jp nnn) (.invalidJumpTarget nnn) s
  else .next (s.setPc (addrOperand nnn))

/-- CALL NNN (R64), with `Push` (R59): the target is checked first (D20). -/
def execCall (nnn : Addr) (s : State) : Result :=
  if addrOperand nnn < Config.jumpMin then raise (.call nnn) (.invalidJumpTarget nnn) s
  else if Config.stackDepth ≤ s.sp then raise (.call nnn) (.stackOverflow s.sp) s
  else .next ((s.pushed s.pc).setPc (addrOperand nnn))

/-- SE Vx, NN (R65). -/
def execSeImm (x : RegIdx) (nn : Byte) (s : State) : Result := .next (skipIf (s.reg x == nn) s)

/-- SNE Vx, NN (R66). -/
def execSneImm (x : RegIdx) (nn : Byte) (s : State) : Result := .next (skipIf (s.reg x != nn) s)

/-- SE Vx, Vy (R67). -/
def execSeReg (x y : RegIdx) (s : State) : Result := .next (skipIf (s.reg x == s.reg y) s)

/-- SNE Vx, Vy (R68). -/
def execSneReg (x y : RegIdx) (s : State) : Result := .next (skipIf (s.reg x != s.reg y) s)

/-- JP V0, NNN (R69): the target is not checked (D19). -/
def execJpV0 (nnn : Addr) (s : State) : Result := .next (s.setPc (offsetTarget s nnn))

end Sys2Proof.Machine
end

