-- ==== Sys2Proof/Machine/Display.lean ====
section
/-! DEFINITION. The display instructions (41_display.md). -/

namespace Sys2Proof.Machine

/-- CLS (R57). -/
def execCls (s : State) : Result := .next (s.setDisplay Display.clear)

/-- DRW Vx, Vy, N (R58): the memory check, then the display check, then pixels and flag. -/
def execDrw (x y : RegIdx) (n : Fin 16) (s : State) : Result :=
  match firstOutside s.I.toNat n.val with
  | some a => raise (.drw x y n) (.undefinedAccess (.memory a)) s
  | none =>
    match drawTargets s x y n with
    | .error p => raise (.drw x y n) (.undefinedAccess (.display p.1 p.2)) s
    | .ok targets =>
      .next ((s.setDisplay (drawPixels targets s.display false).1).setReg Config.flagReg
        (flagByte (drawPixels targets s.display false).2))

end Sys2Proof.Machine
end

