-- ==== Sys2Proof/Machine/TimersKeypad.lean ====
section
/-! DEFINITION. The keypad and timer instructions (45_timers_keypad.md). -/

namespace Sys2Proof.Machine

/-- SKP Vx (R93). -/
def execSkp (x : RegIdx) (dc : Nibble) (s : State) : Result :=
  match keyOperand s x with
  | none => raise (.skp x dc) (.undefinedAccess (.key (s.reg x).toNat)) s
  | some k => .next (skipIf (s.key k) s)

/-- SKNP Vx (R94). -/
def execSknp (x : RegIdx) (dc : Nibble) (s : State) : Result :=
  match keyOperand s x with
  | none => raise (.sknp x dc) (.undefinedAccess (.key (s.reg x).toNat)) s
  | some k => .next (skipIf (!s.key k) s)

/-- LD Vx, DT (R95). -/
def execLdVxDt (x : RegIdx) (s : State) : Result := .next (s.setReg x s.DT)

/-- LD DT, Vx (R96). -/
def execLdDtVx (x : RegIdx) (s : State) : Result := .next (s.setDT (s.reg x))

/-- LD ST, Vx (R97). -/
def execLdStVx (x : RegIdx) (s : State) : Result := .next (s.setST (s.reg x))

/-- LD Vx, K (R98): the machine waits; `deliverKey` completes it (R114). -/
def execLdVxK (x : RegIdx) (s : State) : Result := .next (s.setWait (.awaiting x))

end Sys2Proof.Machine
end

