-- ==== Sys2Proof/Machine/Cycle.lean ====
section
/-! DEFINITION. The fetch-decode-execute cycle (40_dispatch.md R49 to R55). -/

namespace Sys2Proof.Machine

/-- Decode and execute a fetched word (R53 to R55): `a` is the fetch address. -/
def dispatchWord (w : Word) (s : State) : Result :=
  match decodeWord s.params.strictDecode w with
  | none => takeFault .invalidInstruction (some w) s.pc s.advance
  | some i => exec i s.advance

/-- One cycle (R49 to R55). A halted or waiting machine stays as it is (R50, R51; log 4). -/
def cycle (s : State) : Result :=
  match s.run with
  | .halted _ => .next s
  | .running =>
    match s.wait with
    | .awaiting _ => .next s
    | .none =>
      match s.fetch with
      | .error a => takeFault (.undefinedAccess (.memory a)) none s.pc s
      | .ok w => dispatchWord w s

/-- Where `withFetchWord` lays an instruction: `pc`, or 0x200 where no instruction can be fetched at `pc` (log 10). -/
def State.fetchSlot (s : State) : Nat := if s.pc.toNat + 2 ≤ Config.memSize then s.pc.toNat else Config.programBase

end Sys2Proof.Machine
end

