-- ==== Sys2Proof/Machine/Step.lean ====
section
/-! DEFINITION. One fetch-decode-execute cycle (40_dispatch.md R49 to R55), and the placing of one instruction where it fetches. -/

namespace Sys2Proof.Machine

/-- `step()` (R49): exactly one fetch-decode-execute cycle. -/
def step (s : State) : Host.Outcome State Fault Refusal := cycle s

/-- The state whose very next step fetches and runs the instruction with the table's bits `w` (log 10): its two bytes
stand big-endian at `pc`, and the machine runs and waits for nothing. -/
def State.withFetchWord (s : State) (nbits w : Nat) : State :=
  { s with
    mem := s.mem.writeBytes s.fetchSlot
      [highByte (BitVec.ofNat 16 (w % 2 ^ nbits)), lowByte (BitVec.ofNat 16 (w % 2 ^ nbits))]
    pc := BitVec.ofNat 16 s.fetchSlot
    wait := .none
    run := .running }

end Sys2Proof.Machine
end

