-- ==== Sys2Proof/Machine/HostActions.lean ====
section
/-! DEFINITION. What the host can do to the machine (60_exceptions.md R111 to R117, 70_reset_and_hazards.md R122 to R125, 40_dispatch.md R56). -/

namespace Sys2Proof.Machine

/-- `tick()` (R112): each timer that is not zero falls by one. -/
def tick (s : State) : State :=
  (s.setDT (if s.DT = 0 then 0 else s.DT - 1)).setST (if s.ST = 0 then 0 else s.ST - 1)

/-- `deliverKey(k)` for a key that exists (R114): completes a wait of a running machine, else nothing (D29). -/
def deliverKey (k : Fin 16) (s : State) : State :=
  match s.run, s.wait with
  | .running, .awaiting x => (s.setReg x (BitVec.ofNat 8 k.val)).setWait .none
  | .running, .none => s
  | .halted _, _ => s

/-- Font load (R123). -/
def loadFont (font : Vector Byte 80) (m : Memory) : Memory := m.writeBytes Config.fontBase font.toList

/-- Image load (R124): at most `MAX_IMAGE` bytes, the rest dropped. -/
def loadImage (image : List Byte) (m : Memory) : Memory :=
  m.writeBytes Config.programBase (image.take Config.maxImage)

/-- The state `reset(image)` leaves on a machine with the parameters `p` (R122). -/
def resetState (p : Params) (image : List Byte) : State :=
  { State.reset with mem := loadImage image (loadFont p.font State.reset.mem), params := p }

/-- `reset(image)` in any state (R125): only what is not state of the spec stays, the machine's parameters and the
oracle's position (log 1, log 2). -/
def hostReset (image : List Byte) (s : State) : State := { resetState s.params image with draws := s.draws }

/-- `step(cycles)` (R56): stops after the step that halted. -/
def stepCycles : Nat → State → Result
  | 0, s => .next s
  | n + 1, s =>
    match step s with
    | .next t =>
      match t.run with
      | .halted _ => .next t
      | .running => stepCycles n t
    | .fault r => .fault r
    | .refused r => .refused r

/-- `getPixel(x, y)` (R115): 0 ≤ x < 64, 0 ≤ y < 32. -/
def State.getPixel (s : State) (x : Fin 64) (y : Fin 32) : Bool := s.display.pix (x, y)

/-- `readFault()` (R116): the fault record of a halted machine. -/
def State.readFault (s : State) : Option FaultRecord :=
  match s.run with
  | .halted f => some f
  | .running => none

/-- The actions of R111 that may change the state. The queries are `State.getPixel` and `State.readFault`; `stop` is
the host's ceasing to act (R116). -/
inductive HostAction where
  | reset (image : List Byte)
  | step
  | stepCycles (cycles : Nat)
  | tick
  | setKeys (keys : Keypad)
  | deliverKey (k : Nat)
deriving DecidableEq, Repr

/-- One host action (R111). A delivery of `k > 15` is no move (R114, U9). -/
def hostAct : HostAction → State → Result
  | .reset image, s => .next (hostReset image s)
  | .step, s => Sys2Proof.Machine.step s
  | .stepCycles n, s => Sys2Proof.Machine.stepCycles n s
  | .tick, s => .next (Sys2Proof.Machine.tick s)
  | .setKeys ks, s => .next (s.setKeys ks)
  | .deliverKey k, s =>
    if h : k < 16 then .next (Sys2Proof.Machine.deliverKey ⟨k, h⟩ s) else .refused (.illegalKeyDelivery k)

/-- A sequence of host actions, in the order the host performs them (R38, R117). -/
def runActions : List HostAction → State → Result
  | [], s => .next s
  | a :: rest, s =>
    match hostAct a s with
    | .next t => runActions rest t
    | .fault r => .fault r
    | .refused r => .refused r

end Sys2Proof.Machine
end

