-- ==== Sys2Proof/Safety.lean ====
section
/-! DEFINITION. The terms claims are stated in: what a step may change, the invariant, a safe run, the launch premise and the end of a run. -/

namespace Sys2Proof.Machine

/-- The pieces of the state that a frame names. -/
inductive Part where
  | mem | regs | addr | pc | stack | DT | ST | display | keys | wait | run | params | draws
deriving DecidableEq, Repr

/-- Nothing but the listed parts differs between two states. Memory is compared byte by byte, through the read of one
byte, and as data. -/
def OnlyChanges (changed : List Part) (s t : State) : Prop :=
  (.mem ∉ changed → (∀ a, t.mem.read a = s.mem.read a) ∧ t.mem = s.mem) ∧
  (.regs ∉ changed → ∀ r, t.reg r = s.reg r) ∧
  (.addr ∉ changed → t.I = s.I) ∧
  (.pc ∉ changed → t.pc = s.pc) ∧
  (.stack ∉ changed → t.stack = s.stack) ∧
  (.DT ∉ changed → t.DT = s.DT) ∧
  (.ST ∉ changed → t.ST = s.ST) ∧
  (.display ∉ changed → t.display = s.display) ∧
  (.keys ∉ changed → t.keys = s.keys) ∧
  (.wait ∉ changed → t.wait = s.wait) ∧
  (.run ∉ changed → t.run = s.run) ∧
  (.params ∉ changed → t.params = s.params) ∧
  (.draws ∉ changed → t.draws = s.draws)

/-- Every register but the listed ones holds what it held. -/
def RegsKeptBut (changed : List RegIdx) (s t : State) : Prop := ∀ r, r ∉ changed → t.reg r = s.reg r

/-- Every byte outside the `len` bytes from `base` on reads as it did. -/
def BytesKeptOutside (base len : Nat) (s t : State) : Prop :=
  ∀ a, (a < base ∨ base + len ≤ a) → t.mem.read a = s.mem.read a

/-- The answer is a state halted with this record (R106); of a halted state a claim reads the record alone. -/
def HaltsWith (r : Result) (f : FaultRecord) : Prop := ∃ t, r = .next t ∧ t.run = .halted f

/-- The record of a fault that the handler of `i` raises in a state whose `pc` is already advanced (R105). -/
def handlerRecord (i : Instr) (f : Fault) (s : State) : FaultRecord :=
  { fault := f, word := some (encode i), pc := s.pc, fetchAddr := s.pc - 2 }

/-- A set bit of the sprite that DRW draws (R58): row `r`, bit index `b`, bit
index 0 the most significant. -/
def SpriteBit (s : State) (n : Fin 16) (r b : Nat) : Prop :=
  r < n.val ∧ b < 8 ∧ (s.mem.read (s.I.toNat + r)).getLsbD (7 - b) = true

/-- A pixel that DRW draws to (R58): the place of a set sprite bit, reduced to the grid under WRAP. -/
def DrawnPixel (s : State) (x y : RegIdx) (n : Fin 16) (p : Pixel) : Prop :=
  ∃ r b, SpriteBit s n r b ∧
    match s.params.drawOffscreen with
    | .wrap => p.1.val = ((s.reg x).toNat + b) % 64 ∧ p.2.val = ((s.reg y).toNat + r) % 32
    | .fault => p.1.val = (s.reg x).toNat + b ∧ p.2.val = (s.reg y).toNat + r
    | .clip => p.1.val = (s.reg x).toNat + b ∧ p.2.val = (s.reg y).toNat + r

/-- Sprite bit `(r, b)` falls off the 64x32 grid (R58, R104). -/
def OffGrid (s : State) (x y : RegIdx) (r b : Nat) : Prop := 64 ≤ (s.reg x).toNat + b ∨ 32 ≤ (s.reg y).toNat + r

/-- A return address that a call pushed: the address after an instruction that could be fetched (R62, R64). -/
def isReturnAddress (a : Word) : Bool := decide (2 ≤ a.toNat) && decide (a.toNat ≤ 0x1000)

/-- The invariant of the machine: memory in canonical form, at most 12 stack entries, each a return address (R17,
R62), and `pc` at most 0x10FE (R16). -/
def Inv (s : State) : Prop :=
  s.mem.wf = true ∧ s.sp ≤ Config.stackDepth ∧ (∀ a ∈ s.stack, isReturnAddress a = true) ∧ s.pc.toNat ≤ 0x10FE

/-- A fetch from `pc = a` reads `v` as the upper byte of the word, one from `pc = a - 1` as the lower byte, wherever
both bytes of the word lie in memory (R25, R37, R52). -/
def FetchReads (t : State) (a v : Nat) : Prop :=
  ∀ p : Word, p.toNat + 1 < Config.memSize → (p.toNat = a ∨ p.toNat + 1 = a) →
    ∃ w, State.fetch { t with pc := p } = .ok w ∧
      (p.toNat = a → w.toNat / 256 = v) ∧ (p.toNat + 1 = a → w.toNat % 256 = v)

/-- The machine has not halted: what a safe run keeps (R121). -/
def NotHalted (s : State) : Prop := s.run = .running

/-- The machine executes an instruction in its next step: it runs, waits for nothing, and can fetch (R50 to R52). -/
def Ready (s : State) : Prop := s.run = .running ∧ s.wait = .none ∧ s.pc.toNat + 1 < Config.memSize

/-- The launch premise `CleanLaunch(s, image)` (R126), for a machine with the parameters `p`. -/
def CleanLaunch (p : Params) (s : State) (image : List Byte) : Prop :=
  { s with draws := 0 } = { resetState p image with draws := 0 }

/-- The end of a test program (R121): the word at `pc` decodes as a jump to `pc`. -/
def SelfLoop (s : State) : Prop :=
  ∃ w nnn, s.fetch = .ok w ∧ decodeWord s.params.strictDecode w = some (.jp nnn) ∧ nnn.toNat = s.pc.toNat

end Sys2Proof.Machine
end

