-- ==== Sys2Proof/Certificates/Slice0/Obligations.lean ====
section
/-! DEFINITION. The statements for the provers. Inside `exec`, `pc` is already the instruction's address plus 2 (R10). -/

open Sys2Proof Sys2Proof.Machine

/-! ### Encoding and the cycle -/

/-- R52 to R54: where the machine executes an instruction, the step is `exec` of the instruction that the two bytes
at `pc` decode to, in the state whose `pc` is advanced by 2. -/
def Obligations.StepRunsTheDecodedInstruction : Prop :=
  ∀ (s : State) (i : Instr) (rest : List Byte), Ready s →
    decode s.params.strictDecode [s.mem.read s.pc.toNat, s.mem.read (s.pc.toNat + 1)] = .ok (i, rest) →
    step s = exec i { s with pc := BitVec.ofNat 16 (s.pc.toNat + 2) }

/-- R46: words written out from the patterns decode to their instructions. The patterns are the spec's own choice
(D1), the don't-care bits its reading of the dispatch (D2); log 11. -/
def Obligations.PatternWordsDecode : Prop :=
  decodeWord false 0x6005 = some (.ldImm 0 0x05) ∧ decodeWord true 0x00E0 = some (.cls 0x0E) ∧
  decodeWord true 0x00EE = some (.ret 0x0E) ∧ decodeWord true 0x1ABC = some (.jp 0xABC) ∧
  decodeWord true 0x8D36 = some (.shr 13 3) ∧ decodeWord true 0xD12F = some (.drw 1 2 15) ∧
  decodeWord true 0xE49E = some (.skp 4 0x9) ∧ decodeWord true 0xF715 = some (.ldDtVx 7) ∧
  decodeWord true 0xFA65 = some (.ldVxMem 10) ∧ decodeWord false 0xF117 = some (.ldVxDt 1 0x1) ∧
  decodeWord true 0xF117 = none ∧ decodeWord false 0xF125 = none ∧ decodeWord true 0xF125 = none

/-- R44 to R46: the decoder gives back every well-formed instruction that is encoded, at every value of its operands
and with any bytes after it, under default and under strict decoding. The patterns and the two decodings are the
spec's own (D1, D2); that the don't-care bits are operands is the model's (log 7). -/
def Obligations.DecodeOfEncodeIsTheInstruction : Prop :=
  ∀ (strict : Bool) (i : Instr) (rest : List Byte), i.wellFormed strict = true →
    decode strict (encodeBytes i ++ rest) = .ok (i, rest)

/-- R44, R45: a word that decodes is the encoding of its instruction, so no bit of it is lost, and the instruction
is well-formed. Rests on D1, D2 and log 7. -/
def Obligations.EncodeOfDecodeIsTheWord : Prop :=
  ∀ (strict : Bool) (w : Word) (i : Instr), decodeWord strict w = some i →
    encode i = w ∧ i.wellFormed strict = true

/-- R46: a word selects row `k` of the opcode map, by mask and match of the mode, exactly when it decodes to an
instruction of that row; so at most one row matches a word. Rests on D1 and D2. -/
def Obligations.DecoderAgreesWithOpcodeMap : Prop :=
  ∀ (strict : Bool) (w : Word) (k : Nat),
    (∃ r ∈ opcodeTable, r.number = k ∧ r.selects strict w = true) ↔ (∃ i, decodeWord strict w = some i ∧ i.row = k)

/-- R47: the invalid words under default decoding are exactly the listed ones, as the spec derives them from its
reading of the dispatch (D2). -/
def Obligations.InvalidWordsAreTheListedOnes : Prop :=
  ∀ w : Word, decodeWord false w = none ↔
    (w.toNat / 4096 = 0x0 ∧ w.toNat % 16 ∉ [0x0, 0xE]) ∨
    (w.toNat / 4096 = 0x8 ∧ w.toNat % 16 ∈ [0x8, 0x9, 0xA, 0xB, 0xC, 0xD, 0xF]) ∨
    (w.toNat / 4096 = 0xE ∧ w.toNat % 16 ∉ [0x1, 0xE]) ∨
    (w.toNat / 4096 = 0xF ∧ (w.toNat % 16 ∈ [0x0, 0x1, 0x2, 0x4, 0x6, 0xB, 0xC, 0xD, 0xF] ∨
      (w.toNat % 16 = 0x5 ∧ w.toNat / 16 % 16 ∉ [0x1, 0x5, 0x6])))

/-- R45: strict decoding accepts a subset of the words default decoding accepts, with the same handler (the spec's
own parameter, D2). -/
def Obligations.StrictDecodingIsASubset : Prop :=
  ∀ (w : Word) (i : Instr), decodeWord true w = some i → decodeWord false w = some i

/-- R50: a step in the halted state reports the fault and changes nothing. That the halted state absorbs is the
spec's own choice (D14). -/
def Obligations.HaltedStepChangesNothing : Prop :=
  ∀ (s : State) (f : FaultRecord), s.run = .halted f → step s = .next s ∧ s.status = .halted f

/-- R51, R120: a step in the awaiting-key state reports it and changes nothing. Every host action but a key delivery
or a reset leaves the machine waiting with the same outcome and changes at most the timers and the keypad. The
outcome is read from the state (log 4); ticks and snapshots during the wait are the spec's choices (D30, D31). -/
def Obligations.AwaitingMachineWaitsForDelivery : Prop :=
  ∀ (s : State) (x : RegIdx), s.run = .running → s.wait = .awaiting x →
    step s = .next s ∧ s.status = .awaitingKey ∧
      ∀ (a : HostAction) (t : State), (∀ k, a ≠ .deliverKey k) → (∀ image, a ≠ .reset image) →
        hostAct a s = .next t → t.wait = .awaiting x ∧ t.pc = s.pc ∧ t.status = .awaitingKey ∧
          OnlyChanges [.DT, .ST, .keys] s t

/-- R31: a fetch out of range faults with the first address it may not read, and `pc` is not advanced. The fault is
the spec's own choice for an access the source gives no behaviour (D7). -/
def Obligations.FetchOutOfRangeFaults : Prop :=
  ∀ s : State, s.run = .running → s.wait = .none → 4096 ≤ s.pc.toNat + 1 →
    ∃ t, step s = .next t ∧ t.pc = s.pc ∧
      t.run = .halted { fault := .undefinedAccess (.memory (if 0x1000 ≤ s.pc.toNat then s.pc.toNat else s.pc.toNat + 1)),
                        word := none, pc := s.pc, fetchAddr := s.pc }

/-- R54, R100, R105: an invalid word halts the machine, with the raw word, the advanced `pc` and the address. The
layout of the record is the spec's own (D13). -/
def Obligations.InvalidWordHalts : Prop :=
  ∀ (s : State) (w : Word), Ready s →
    w.toNat = (s.mem.read s.pc.toNat).toNat * 256 + (s.mem.read (s.pc.toNat + 1)).toNat →
    decodeWord s.params.strictDecode w = none →
    HaltsWith (step s)
      { fault := .invalidInstruction, word := some w, pc := s.pc + 2, fetchAddr := s.pc }

/-- R49, R55: every step and every instruction answers a next state, whatever the state it starts in: a fault is a
next state too (log 3), so nothing is refused. -/
def Obligations.EveryStepAnswersNext : Prop :=
  (∀ s : State, ∃ t, step s = .next t) ∧ ∀ (i : Instr) (s : State), ∃ t, exec i s = .next t

/-- R55, R105, R106: a handler that faults commits nothing but the run state, and its record holds the instruction's
word, the advanced `pc` and the instruction's address. This is the spec's own choice (D13); its address is `pc`
minus 2 (log 8). -/
def Obligations.FaultsArePrecise : Prop :=
  ∀ (i : Instr) (s t : State) (f : FaultRecord), s.run = .running → exec i s = .next t → t.run = .halted f →
    t = { s with run := .halted f } ∧ f.word = some (encode i) ∧ f.pc = s.pc ∧ f.fetchAddr = s.pc - 2

/-- R99: the kinds of fault come from the instructions the rule lists. As R101 asks, the statement does not depend
on which of its two kinds a low jump target reports. Rests on D7, D8 and D11 for the undefined accesses. -/
def Obligations.FaultKindsComeFromListedInstructions : Prop :=
  ∀ (i : Instr) (s t : State) (f : FaultRecord), s.run = .running → exec i s = .next t → t.run = .halted f →
    match f.fault with
    | .invalidInstruction => ∃ n, (i = .jp n ∨ i = .call n) ∧ n.toNat < 0x200
    | .invalidJumpTarget n => (i = .jp n ∨ i = .call n) ∧ n.toNat < 0x200
    | .stackOverflow _ => ∃ n, i = .call n
    | .stackUnderflow _ => ∃ dc, i = .ret dc
    | .undefinedAccess (.memory a) =>
      4096 ≤ a ∧ ((∃ x y n, i = .drw x y n) ∨ (∃ x dc, i = .ldBVx x dc) ∨ (∃ x, i = .ldMemVx x) ∨ ∃ x, i = .ldVxMem x)
    | .undefinedAccess (.display px py) =>
      (64 ≤ px ∨ 32 ≤ py) ∧ s.params.drawOffscreen = .fault ∧ ∃ x y n, i = .drw x y n
    | .undefinedAccess (.key k) => 15 < k ∧ ((∃ x dc, i = .skp x dc) ∨ ∃ x dc, i = .sknp x dc)

/-- R56: `step(cycles)` is the iteration of `step`; the early stop at HALTED is not seen (D22, D14). -/
def Obligations.StepCyclesIteratesStep : Prop :=
  ∀ (n : Nat) (s : State), stepCycles n s = Host.Core.run Sys2Proof.core n s

/-- The model's interface (log 10), no rule of the spec: after `withFetchWord` the very next step runs the
instruction of the word, from the model's own `fetchSlot`, which is `pc` wherever an instruction can be fetched
there. -/
def Obligations.PlacedWordRunsNext : Prop :=
  ∀ (s : State) (w : Nat) (i : Instr), s.mem.wf = true → w < 65536 →
    decodeWord s.params.strictDecode (BitVec.ofNat 16 w) = some i →
    ∃ t, step (s.withFetchWord 16 w) = exec i t ∧
      t.pc = BitVec.ofNat 16 (s.fetchSlot + 2) ∧ (s.pc.toNat + 1 < 4096 → t.pc = s.pc + 2) ∧
      t.wait = .none ∧ t.run = .running ∧
      BytesKeptOutside s.fetchSlot 2 s t ∧ OnlyChanges [.mem, .pc, .wait, .run] s t

/-! ### Display -/

/-- R57: CLS zeroes every pixel and nothing else. -/
def Obligations.ClsClearsEveryPixel : Prop :=
  ∀ (dc : BitVec 8) (s : State), ∃ t, exec (.cls dc) s = .next t ∧
    (∀ p, t.display.pix p = false) ∧ OnlyChanges [.display] s t

/-- R58: DRW completes when its rows lie in memory and, under FAULT, its set bits on the grid. It inverts exactly
the pixels it draws to, `x[15]` says whether one of them was set, and nothing else changes. Rests on D8 (off-screen
modes), D9 (coordinates read first) and D10 (bit order; log 11). -/
def Obligations.DrwInvertsTheSpritePixels : Prop :=
  ∀ (x y : RegIdx) (n : Fin 16) (s : State), (n.val = 0 ∨ s.I.toNat + n.val ≤ 4096) →
    (s.params.drawOffscreen = .fault → ∀ r b, SpriteBit s n r b → ¬OffGrid s x y r b) →
    ∃ t, exec (.drw x y n) s = .next t ∧
      (∀ p, DrawnPixel s x y n p → t.display.pix p = !s.display.pix p) ∧
      (∀ p, ¬DrawnPixel s x y n p → t.display.pix p = s.display.pix p) ∧
      ((∃ p, DrawnPixel s x y n p ∧ s.display.pix p = true) → t.reg 15 = 1) ∧
      ((¬∃ p, DrawnPixel s x y n p ∧ s.display.pix p = true) → t.reg 15 = 0) ∧
      RegsKeptBut [15] s t ∧ OnlyChanges [.display, .regs] s t

/-- R58, R108: DRW faults on the first row out of memory, else under FAULT on the first set bit off the grid in
row-major order. The faults and their order are the spec's own choices (D7, D8, D13, D23), so is the bit order (D10;
log 11). -/
def Obligations.DrwFaultsOutOfRange : Prop :=
  ∀ (x y : RegIdx) (n : Fin 16) (s : State),
    (n.val ≠ 0 → 4096 < s.I.toNat + n.val →
      HaltsWith (exec (.drw x y n) s)
        (handlerRecord (.drw x y n) (.undefinedAccess (.memory (max s.I.toNat 4096))) s)) ∧
    ((n.val = 0 ∨ s.I.toNat + n.val ≤ 4096) → s.params.drawOffscreen = .fault →
      ∀ r b, SpriteBit s n r b → OffGrid s x y r b →
        (∀ r' b', SpriteBit s n r' b' → OffGrid s x y r' b' → r < r' ∨ (r = r' ∧ b ≤ b')) →
        HaltsWith (exec (.drw x y n) s)
          (handlerRecord (.drw x y n) (.undefinedAccess (.display ((s.reg x).toNat + b) ((s.reg y).toNat + r))) s))

/-- R58 (the involution, L1.3): the same sprite drawn twice at the same place restores the display, in every
off-screen mode; where both draws complete, the second sets `x[15]` to 1 exactly if a pixel it draws to was 0 before
the first. The place is the same when the first draw leaves the coordinate registers as they were, register 15 among
them where it is one. The off-screen modes are the spec's (D8, D9), the bit order its general knowledge (D10; log
11). -/
def Obligations.DrawingTwiceRestoresTheDisplay : Prop :=
  ∀ (x y : RegIdx) (n : Fin 16) (s t u : State), exec (.drw x y n) s = .next t → exec (.drw x y n) t = .next u →
    t.reg x = s.reg x → t.reg y = s.reg y →
    u.display = s.display ∧
      (s.run = .running → u.run = .running →
        (u.reg 15 = 1 ↔ ∃ p, DrawnPixel s x y n p ∧ s.display.pix p = false))

/-! ### Control flow and the call stack -/

/-- R62: RET pops the newest return address into `pc`; on an empty stack it faults (the record's layout: D13). -/
def Obligations.RetPopsTheNewestAddress : Prop :=
  ∀ (dc : BitVec 8) (s : State),
    (∀ a rest, s.stack = a :: rest → ∃ t, exec (.ret dc) s = .next t ∧ t.pc = a ∧ t.stack = rest ∧
      OnlyChanges [.pc, .stack] s t) ∧
    (s.stack = [] → HaltsWith (exec (.ret dc) s) (handlerRecord (.ret dc) (.stackUnderflow 0) s))

/-- R63: JP to a valid target sets `pc` to it, and nothing else changes. -/
def Obligations.JpSetsPc : Prop :=
  ∀ (nnn : Addr) (s : State), 0x200 ≤ nnn.toNat →
    ∃ t, exec (.jp nnn) s = .next t ∧ t.pc.toNat = nnn.toNat ∧ OnlyChanges [.pc] s t

/-- R64: CALL to a valid target with room on the stack pushes the return address and jumps; with 12 entries it
overflows, and the record holds the stack pointer (D13). -/
def Obligations.CallPushesAndJumps : Prop :=
  ∀ (nnn : Addr) (s : State), 0x200 ≤ nnn.toNat →
    (s.sp < 12 → ∃ t, exec (.call nnn) s = .next t ∧ t.pc.toNat = nnn.toNat ∧ t.stack = s.pc :: s.stack ∧
      t.sp = s.sp + 1 ∧ OnlyChanges [.pc, .stack] s t) ∧
    (s.sp = 12 → HaltsWith (exec (.call nnn) s) (handlerRecord (.call nnn) (.stackOverflow 12) s))

/-- R63, R64, R101: a jump or a call below 0x200 halts the machine, whatever the stack holds. The statement does not
say which of the two kinds R101 lets a model report. That the target is checked before the stack is D20. -/
def Obligations.LowJumpTargetHalts : Prop :=
  ∀ (nnn : Addr) (s : State) (i : Instr), nnn.toNat < 0x200 → (i = .jp nnn ∨ i = .call nnn) →
    ∃ f, (f = .invalidJumpTarget nnn ∨ f = .invalidInstruction) ∧ HaltsWith (exec i s) (handlerRecord i f s)

/-- R62, R64: a return undoes a call: the whole state is what it was when the call began to execute. -/
def Obligations.ReturnUndoesCall : Prop :=
  ∀ (nnn : Addr) (dc : BitVec 8) (s : State), 0x200 ≤ nnn.toNat → s.sp < 12 →
    ∃ t, exec (.call nnn) s = .next t ∧ exec (.ret dc) t = .next s

/-- R65, R66: the immediate skips add 2 to the advanced `pc` exactly when their condition holds. -/
def Obligations.ImmediateSkipsFollowTheComparison : Prop :=
  ∀ (x : RegIdx) (nn : Byte) (s : State),
    (∃ t, exec (.seImm x nn) s = .next t ∧ t.pc = s.pc + (if s.reg x = nn then 2 else 0) ∧ OnlyChanges [.pc] s t) ∧
    (∃ t, exec (.sneImm x nn) s = .next t ∧ t.pc = s.pc + (if s.reg x = nn then 0 else 2) ∧ OnlyChanges [.pc] s t)

/-- R67, R68: the register skips, with any bits in the field default decoding ignores. -/
def Obligations.RegisterSkipsFollowTheComparison : Prop :=
  ∀ (x y : RegIdx) (dc : Nibble) (s : State),
    (∃ t, exec (.seReg x y dc) s = .next t ∧ t.pc = s.pc + (if s.reg x = s.reg y then 2 else 0) ∧
      OnlyChanges [.pc] s t) ∧
    (∃ t, exec (.sneReg x y dc) s = .next t ∧ t.pc = s.pc + (if s.reg x = s.reg y then 0 else 2) ∧
      OnlyChanges [.pc] s t)

/-- R69: jump-with-offset goes to `NNN + x[0]`; that the target is not checked is the spec's choice (D19). -/
def Obligations.JumpWithOffsetAddsRegisterZero : Prop :=
  ∀ (nnn : Addr) (s : State), ∃ t, exec (.jpV0 nnn) s = .next t ∧ t.pc.toNat = nnn.toNat + (s.reg 0).toNat ∧
    OnlyChanges [.pc] s t

/-! ### The ALU -/

/-- R74, R75: load-immediate and add-immediate write their destination alone; the sum wraps at 8 bits and there is
no carry flag. -/
def Obligations.ImmediateLoadAndAdd : Prop :=
  ∀ (x : RegIdx) (nn : Byte) (s : State),
    (∃ t, exec (.ldImm x nn) s = .next t ∧ t.reg x = nn ∧ RegsKeptBut [x] s t ∧ OnlyChanges [.regs] s t) ∧
    (∃ t, exec (.addImm x nn) s = .next t ∧ (t.reg x).toNat = ((s.reg x).toNat + nn.toNat) % 256 ∧
      RegsKeptBut [x] s t ∧ OnlyChanges [.regs] s t)

/-- R76 to R79: copy, OR, AND and XOR write their destination alone; `x[15]` is unchanged unless it is the
destination (the spec's choice for OR, AND and XOR, D6). -/
def Obligations.CopyAndLogicWriteTheDestination : Prop :=
  ∀ (x y : RegIdx) (s : State),
    (∃ t, exec (.ldReg x y) s = .next t ∧ t.reg x = s.reg y ∧ RegsKeptBut [x] s t ∧ OnlyChanges [.regs] s t) ∧
    (∃ t, exec (.orReg x y) s = .next t ∧ (∀ k, (t.reg x).getLsbD k = ((s.reg x).getLsbD k || (s.reg y).getLsbD k)) ∧
      RegsKeptBut [x] s t ∧ OnlyChanges [.regs] s t) ∧
    (∃ t, exec (.andReg x y) s = .next t ∧ (∀ k, (t.reg x).getLsbD k = ((s.reg x).getLsbD k && (s.reg y).getLsbD k)) ∧
      RegsKeptBut [x] s t ∧ OnlyChanges [.regs] s t) ∧
    (∃ t, exec (.xorReg x y) s = .next t ∧
      (∀ k, (t.reg x).getLsbD k = ((s.reg x).getLsbD k ^^ (s.reg y).getLsbD k)) ∧
      RegsKeptBut [x] s t ∧ OnlyChanges [.regs] s t)

/-- R80, R73: register add. The flag is the carry and is written last, so `X = 15` ends as the flag (the order is
the spec's choice, D3). -/
def Obligations.AddSetsSumAndCarry : Prop :=
  ∀ (x y : RegIdx) (s : State), ∃ t, exec (.addReg x y) s = .next t ∧
    (x ≠ 15 → (t.reg x).toNat = ((s.reg x).toNat + (s.reg y).toNat) % 256) ∧
    t.reg 15 = (if 255 < (s.reg x).toNat + (s.reg y).toNat then 1 else 0) ∧
    RegsKeptBut [x, 15] s t ∧ OnlyChanges [.regs] s t

/-- R72, R73, R81, R83: the two subtracts, both operand orders, under both polarities of the borrow flag (D4); the
flag is written last (D3). -/
def Obligations.SubtractsSetDifferenceAndBorrow : Prop :=
  ∀ (x y : RegIdx) (s : State),
    (∃ t, exec (.subReg x y) s = .next t ∧
      (x ≠ 15 → (t.reg x).toNat = ((s.reg x).toNat + 256 - (s.reg y).toNat) % 256) ∧
      (s.params.borrowPolarity = .noBorrowIsOne →
        t.reg 15 = if (s.reg x).toNat < (s.reg y).toNat then 0 else 1) ∧
      (s.params.borrowPolarity = .borrowIsOne →
        t.reg 15 = if (s.reg x).toNat < (s.reg y).toNat then 1 else 0) ∧
      RegsKeptBut [x, 15] s t ∧ OnlyChanges [.regs] s t) ∧
    (∃ t, exec (.subn x y) s = .next t ∧
      (x ≠ 15 → (t.reg x).toNat = ((s.reg y).toNat + 256 - (s.reg x).toNat) % 256) ∧
      (s.params.borrowPolarity = .noBorrowIsOne →
        t.reg 15 = if (s.reg y).toNat < (s.reg x).toNat then 0 else 1) ∧
      (s.params.borrowPolarity = .borrowIsOne →
        t.reg 15 = if (s.reg y).toNat < (s.reg x).toNat then 1 else 0) ∧
      RegsKeptBut [x, 15] s t ∧ OnlyChanges [.regs] s t)

/-- R82, R84, R73: the two shifts of the source register that the parameter names; the flag is the bit shifted out. -/
def Obligations.ShiftsMoveTheSourceByOne : Prop :=
  ∀ (x y : RegIdx) (s : State) (src : Byte),
    src = (if s.params.shiftSource = .y then s.reg y else s.reg x) →
    (∃ t, exec (.shr x y) s = .next t ∧ (x ≠ 15 → (t.reg x).toNat = src.toNat / 2) ∧
      (t.reg 15).toNat = src.toNat % 2 ∧ RegsKeptBut [x, 15] s t ∧ OnlyChanges [.regs] s t) ∧
    (∃ t, exec (.shl x y) s = .next t ∧ (x ≠ 15 → (t.reg x).toNat = src.toNat * 2 % 256) ∧
      (t.reg 15).toNat = src.toNat / 128 ∧ RegsKeptBut [x, 15] s t ∧ OnlyChanges [.regs] s t)

/-- R85: RND writes the masked oracle byte; a bit that `NN` has 0 is 0 whatever is drawn. That the byte is the draw
of the model's counter is the model's form of the oracle (log 2). -/
def Obligations.RndWritesTheMaskedOracleByte : Prop :=
  ∀ (x : RegIdx) (nn : Byte) (s : State), ∃ t, exec (.rnd x nn) s = .next t ∧
    t.reg x = Config.randomByte s.draws &&& nn ∧
    (∀ k, nn.getLsbD k = false → (t.reg x).getLsbD k = false) ∧
    t.draws = s.draws + 1 ∧ RegsKeptBut [x] s t ∧ OnlyChanges [.regs, .draws] s t

/-! ### Address register and memory -/

/-- R86 to R88: the three instructions that set `I` alone. The reduction mod 2^16 is D28, the full register value of
LD F is D12. -/
def Obligations.AddressRegisterInstructions : Prop :=
  ∀ (nnn : Addr) (x : RegIdx) (dc : Nibble) (s : State),
    (∃ t, exec (.ldI nnn) s = .next t ∧ t.I.toNat = nnn.toNat ∧ OnlyChanges [.addr] s t) ∧
    (∃ t, exec (.addIVx x dc) s = .next t ∧ t.I.toNat = (s.I.toNat + (s.reg x).toNat) % 65536 ∧
      OnlyChanges [.addr] s t) ∧
    (∃ t, exec (.ldFVx x dc) s = .next t ∧ t.I.toNat = 5 * (s.reg x).toNat ∧ OnlyChanges [.addr] s t)

/-- R90: LD B stores the three digits and keeps every other byte; out of range it faults on the first bad address.
In a state whose memory is canonical (an invariant, see StepKeepsInv) the digits are read back. The fault is D7, its
record D13. -/
def Obligations.BcdStoresThreeDigits : Prop :=
  ∀ (x : RegIdx) (dc : Nibble) (s : State),
    (s.I.toNat + 2 < 4096 → ∃ t, exec (.ldBVx x dc) s = .next t ∧
      (s.mem.wf = true →
        (t.mem.read s.I.toNat).toNat = (s.reg x).toNat / 100 ∧
        (t.mem.read (s.I.toNat + 1)).toNat = (s.reg x).toNat / 10 % 10 ∧
        (t.mem.read (s.I.toNat + 2)).toNat = (s.reg x).toNat % 10) ∧
      BytesKeptOutside s.I.toNat 3 s t ∧ OnlyChanges [.mem] s t) ∧
    (4096 ≤ s.I.toNat + 2 → HaltsWith (exec (.ldBVx x dc) s)
      (handlerRecord (.ldBVx x dc) (.undefinedAccess (.memory (max s.I.toNat 4096))) s))

/-- R91: LD [I], Vx stores registers 0 to X from `I` on and adds X + 1 to `I`; out of range it faults (D7, D13,
D28). -/
def Obligations.BlockStoreWritesRegisters : Prop :=
  ∀ (x : RegIdx) (s : State),
    (s.I.toNat + x.val < 4096 → ∃ t, exec (.ldMemVx x) s = .next t ∧
      (s.mem.wf = true → ∀ r : RegIdx, r ≤ x → t.mem.read (s.I.toNat + r.val) = s.reg r) ∧
      t.I.toNat = (s.I.toNat + x.val + 1) % 65536 ∧
      BytesKeptOutside s.I.toNat (x.val + 1) s t ∧ OnlyChanges [.mem, .addr] s t) ∧
    (4096 ≤ s.I.toNat + x.val → HaltsWith (exec (.ldMemVx x) s)
      (handlerRecord (.ldMemVx x) (.undefinedAccess (.memory (max s.I.toNat 4096))) s))

/-- R92: LD Vx, [I] loads registers 0 to X from `I` on, keeps the others and adds X + 1 to `I`; out of range it
faults (D7, D13, D28). -/
def Obligations.BlockLoadReadsRegisters : Prop :=
  ∀ (x : RegIdx) (s : State),
    (s.I.toNat + x.val < 4096 → ∃ t, exec (.ldVxMem x) s = .next t ∧
      (∀ r : RegIdx, r ≤ x → t.reg r = s.mem.read (s.I.toNat + r.val)) ∧
      (∀ r : RegIdx, x < r → t.reg r = s.reg r) ∧
      t.I.toNat = (s.I.toNat + x.val + 1) % 65536 ∧ OnlyChanges [.regs, .addr] s t) ∧
    (4096 ≤ s.I.toNat + x.val → HaltsWith (exec (.ldVxMem x) s)
      (handlerRecord (.ldVxMem x) (.undefinedAccess (.memory (max s.I.toNat 4096))) s))

/-- R92 (the property of the source, L1.4): a block store, `I` set back, and a block load with the same X leave
every register and all of memory as the store left them. -/
def Obligations.BlockStoreThenLoadIsIdentity : Prop :=
  ∀ (x : RegIdx) (s : State), s.mem.wf = true → s.I.toNat + x.val < 4096 →
    ∃ t, exec (.ldMemVx x) s = .next t ∧ exec (.ldVxMem x) { t with I := s.I } = .next { t with regs := s.regs }

/-- R25, R37: a byte that a block store or LD B wrote is the byte that the next fetch reads there, be it the upper
or the lower byte of the word (D17). -/
def Obligations.FetchSeesTheStore : Prop :=
  ∀ (x : RegIdx) (s t : State), s.mem.wf = true →
    (s.I.toNat + x.val < 4096 → exec (.ldMemVx x) s = .next t →
      ∀ r : RegIdx, r ≤ x → FetchReads t (s.I.toNat + r.val) (s.reg r).toNat) ∧
    (∀ dc, s.I.toNat + 2 < 4096 → exec (.ldBVx x dc) s = .next t →
      FetchReads t s.I.toNat ((s.reg x).toNat / 100) ∧
      FetchReads t (s.I.toNat + 1) ((s.reg x).toNat / 10 % 10) ∧
      FetchReads t (s.I.toNat + 2) ((s.reg x).toNat % 10))

/-! ### Timers and keypad -/

/-- R95 to R97: the timer instructions. -/
def Obligations.TimerInstructions : Prop :=
  ∀ (x : RegIdx) (dc : Nibble) (s : State),
    (∃ t, exec (.ldVxDt x dc) s = .next t ∧ t.reg x = s.DT ∧ RegsKeptBut [x] s t ∧ OnlyChanges [.regs] s t) ∧
    (∃ t, exec (.ldDtVx x) s = .next t ∧ t.DT = s.reg x ∧ OnlyChanges [.DT] s t) ∧
    (∃ t, exec (.ldStVx x dc) s = .next t ∧ t.ST = s.reg x ∧ OnlyChanges [.ST] s t)

/-- R93, R94: the key skips read the key that the register names; a number above 15 faults (the spec's choice, D11).
-/
def Obligations.KeySkipsReadTheNamedKey : Prop :=
  ∀ (x : RegIdx) (dc : Nibble) (s : State),
    (∀ k : Fin 16, (s.reg x).toNat = k.val →
      (∃ t, exec (.skp x dc) s = .next t ∧ t.pc = s.pc + (if s.key k = true then 2 else 0) ∧ OnlyChanges [.pc] s t) ∧
      (∃ t, exec (.sknp x dc) s = .next t ∧ t.pc = s.pc + (if s.key k = true then 0 else 2) ∧
        OnlyChanges [.pc] s t)) ∧
    (15 < (s.reg x).toNat →
      HaltsWith (exec (.skp x dc) s) (handlerRecord (.skp x dc) (.undefinedAccess (.key (s.reg x).toNat)) s) ∧
      HaltsWith (exec (.sknp x dc) s) (handlerRecord (.sknp x dc) (.undefinedAccess (.key (s.reg x).toNat)) s))

/-- R98: wait-for-keypress sets the wait state and nothing else; a running machine then reports AWAITING_KEY, and
the delivery of a key writes its number to the register and ends the wait (D15). How the model reports AWAITING_KEY:
log 4. -/
def Obligations.WaitForKeySuspendsUntilDelivery : Prop :=
  ∀ (x : RegIdx) (dc : Nibble) (s : State), ∃ t, exec (.ldVxK x dc) s = .next t ∧ t.wait = .awaiting x ∧
    OnlyChanges [.wait] s t ∧
    (s.run = .running → t.status = .awaitingKey ∧ step t = .next t ∧
      ∀ k : Fin 16, ∃ u, hostAct (.deliverKey k.val) t = .next u ∧ (u.reg x).toNat = k.val ∧ u.wait = .none ∧
        RegsKeptBut [x] s u ∧ OnlyChanges [.regs, .wait] s u)

/-! ### The host -/

/-- R112: a tick lowers each timer that is not zero by one, in every run state (D30), and changes nothing else. -/
def Obligations.TickLowersTheTimers : Prop :=
  ∀ s : State, ∃ t, hostAct .tick s = .next t ∧ t.DT.toNat = s.DT.toNat - 1 ∧ t.ST.toNat = s.ST.toNat - 1 ∧
    OnlyChanges [.DT, .ST] s t

/-- R113: a snapshot replaces the keypad state and completes no wait (D31). -/
def Obligations.SnapshotReplacesTheKeys : Prop :=
  ∀ (ks : Keypad) (s : State), ∃ t, hostAct (.setKeys ks) s = .next t ∧ (∀ k : Fin 16, t.key k = ks[k]) ∧
    OnlyChanges [.keys] s t

/-- R114: a delivery completes the wait of a running machine, otherwise has no effect (D29); above 15 it is no move
(D15), which the model refuses (log 9). -/
def Obligations.DeliveryCompletesTheWait : Prop :=
  ∀ (k : Nat) (s : State),
    (k ≤ 15 → s.run = .running → ∀ x, s.wait = .awaiting x → ∃ t, hostAct (.deliverKey k) s = .next t ∧
      (t.reg x).toNat = k ∧ t.wait = .none ∧ RegsKeptBut [x] s t ∧ OnlyChanges [.regs, .wait] s t) ∧
    (k ≤ 15 → (s.run ≠ .running ∨ s.wait = .none) → hostAct (.deliverKey k) s = .next s) ∧
    (15 < k → ∃ r, hostAct (.deliverKey k) s = .refused r)

/-- R122 to R124: what `reset(image)` leaves, from any state (D24): every register, the stack, the timers, the
display, the keypad, the wait and run states, and every byte of memory. After an empty image the first step executes
`0x0000`, which is CLS under default decoding (D2; log 10). `FONT` is the machine's parameter (log 1). -/
def Obligations.ResetLeavesTheResetState : Prop :=
  ∀ (image : List Byte) (s : State), ∃ t, hostAct (.reset image) s = .next t ∧
    (∀ r, t.reg r = 0) ∧ t.I = 0 ∧ t.pc = 0x200 ∧ t.stack = [] ∧ t.sp = 0 ∧ t.DT = 0 ∧ t.ST = 0 ∧
    (∀ p, t.display.pix p = false) ∧ (∀ k, t.key k = false) ∧ t.wait = .none ∧ t.run = .running ∧
    (∀ (a : Nat) (h : a < 80), t.mem.read a = s.params.font[a]) ∧
    (∀ a, 80 ≤ a → a < 0x200 → t.mem.read a = 0) ∧
    (∀ (k : Nat) (h : k < image.length), k < 3583 → t.mem.read (0x200 + k) = image[k]) ∧
    (∀ k, image.length ≤ k ∨ 3583 ≤ k → 0x200 + k < 4096 → t.mem.read (0x200 + k) = 0) ∧
    (image = [] → s.params.strictDecode = false → step t = exec (.cls 0) { t with pc := 0x202 })

/-- R125 (D24): reset gives the same result from every state of one machine, halted ones too; what stays is not
state of the spec, the machine's parameters and the oracle's position (log 1, log 2). -/
def Obligations.ResetForgetsTheState : Prop :=
  ∀ (image : List Byte) (s s' : State), s.params = s'.params → s.draws = s'.draws →
    hostAct (.reset image) s = hostAct (.reset image) s' ∧
      ∀ t, hostAct (.reset image) s = .next t → t.params = s.params ∧ t.run = .running

/-- R122: `State.reset` is the state that `reset` with an empty image leaves under the default parameters (log 1,
log 2). -/
def Obligations.ResetStateIsResetWithEmptyImage : Prop :=
  resetState Params.default [] = State.reset ∧ CleanLaunch Params.default State.reset []

/-! ### Rules of the whole machine -/

/-- R12, R15, R17 to R21: which instructions write memory, `I`, the stack, the timers, the display and the wait
state, and that none writes the keypad (R20) or the parameters (R24; the model's own field, log 1). -/
def Obligations.WritersAreTheListedInstructions : Prop :=
  ∀ (i : Instr) (s t : State), exec i s = .next t →
    (t.mem ≠ s.mem → (∃ x dc, i = .ldBVx x dc) ∨ ∃ x, i = .ldMemVx x) ∧
    (t.I ≠ s.I → (∃ n, i = .ldI n) ∨ (∃ x dc, i = .addIVx x dc) ∨ (∃ x dc, i = .ldFVx x dc) ∨
      (∃ x, i = .ldMemVx x) ∨ ∃ x, i = .ldVxMem x) ∧
    (t.stack ≠ s.stack → (∃ n, i = .call n) ∨ ∃ dc, i = .ret dc) ∧
    (t.DT ≠ s.DT → ∃ x, i = .ldDtVx x) ∧ (t.ST ≠ s.ST → ∃ x dc, i = .ldStVx x dc) ∧
    (t.display ≠ s.display → (∃ dc, i = .cls dc) ∨ ∃ x y n, i = .drw x y n) ∧
    (t.wait ≠ s.wait → ∃ x dc, i = .ldVxK x dc) ∧ t.keys = s.keys ∧ t.params = s.params

/-- R61: the control-flow instructions and the key skips are the only ones that change the advanced `pc`. -/
def Obligations.PcWritersAreTheListedInstructions : Prop :=
  ∀ (i : Instr) (s t : State), exec i s = .next t → t.pc ≠ s.pc →
    (∃ dc, i = .ret dc) ∨ (∃ n, i = .jp n) ∨ (∃ n, i = .call n) ∨ (∃ n, i = .jpV0 n) ∨
    (∃ x nn, i = .seImm x nn) ∨ (∃ x nn, i = .sneImm x nn) ∨ (∃ x y dc, i = .seReg x y dc) ∨
    (∃ x y dc, i = .sneReg x y dc) ∨ (∃ x dc, i = .skp x dc) ∨ ∃ x dc, i = .sknp x dc

/-- R14: an instruction that changes `x[15]` is one of the six flag writers, or names register 15 as its destination
(D3, D6). -/
def Obligations.FlagWritersAreTheListedInstructions : Prop :=
  ∀ (i : Instr) (s t : State), exec i s = .next t → t.reg 15 ≠ s.reg 15 →
    (∃ x y, i = .addReg x y ∨ i = .subReg x y ∨ i = .shr x y ∨ i = .subn x y ∨ i = .shl x y) ∨
    (∃ x y n, i = .drw x y n) ∨
    (∃ nn, i = .ldImm 15 nn ∨ i = .addImm 15 nn ∨ i = .rnd 15 nn) ∨
    (∃ y, i = .ldReg 15 y ∨ i = .orReg 15 y ∨ i = .andReg 15 y ∨ i = .xorReg 15 y) ∨
    (∃ dc, i = .ldVxDt 15 dc) ∨ i = .ldVxMem 15

/-- R18: no instruction reads `ST`: two runs that differ in `ST` alone differ afterwards in `ST` at most. -/
def Obligations.NoInstructionReadsTheSoundTimer : Prop :=
  ∀ (i : Instr) (s t : State) (v : Byte), exec i s = .next t →
    ∃ u, exec i { s with ST := v } = .next u ∧ { u with ST := 0 } = { t with ST := 0 }

/-- R20, R29: only the key skips read the keypad: every other instruction does the same whatever the keys are. -/
def Obligations.OnlyKeySkipsReadTheKeypad : Prop :=
  ∀ (i : Instr) (s t : State) (ks : Keypad), (∀ x dc, i ≠ .skp x dc ∧ i ≠ .sknp x dc) → exec i s = .next t →
    exec i { s with keys := ks } = .next { t with keys := ks }

/-- R121: at a self-loop (the end of a test program by the spec's convention, D27) a step changes nothing. -/
def Obligations.SelfLoopStepChangesNothing : Prop :=
  ∀ s : State, Ready s → SelfLoop s → 0x200 ≤ s.pc.toNat → step s = .next s

/-! ### The invariant -/

/-- The invariant holds in the reset state, and after `reset` with any image (R16, R17, R122). -/
def Obligations.ResetMeetsTheInvariant : Prop := Inv State.reset ∧ ∀ p image, Inv (resetState p image)

/-- R16, R17, R62: from every state that meets the invariant a step gives one that meets it: canonical memory, at
most 12 entries on the stack, each a return address, and `pc` at most 0x10FE. The bounds on `pc` and on return
addresses are the spec's derivations. -/
def Obligations.StepKeepsInv : Prop := ∀ s t : State, Inv s → step s = .next t → Inv t

/-- R111, R117: every sequence of host actions, in any order and between any steps, keeps the invariant. -/
def Obligations.HostActionsKeepInv : Prop :=
  ∀ (as : List HostAction) (s t : State), Inv s → runActions as s = .next t → Inv t

/-- R107, R111, R125: no sequence of host actions without a reset leaves the halted state, and the record stays
(D14, D24). -/
def Obligations.OnlyResetLeavesTheHaltedState : Prop :=
  ∀ (as : List HostAction) (s t : State) (f : FaultRecord), s.run = .halted f → (∀ image, .reset image ∉ as) →
    runActions as s = .next t → t.run = .halted f ∧ t.readFault = some f
end

