-- ==== Sys2Proof/Laws/Decode.lean ====
section
/-! SUPPORT. The fields of a word that was built from its fields, and the two bytes of a word. -/

namespace Sys2Proof

theorem field_nibbles_op {a b c d : Nat} (ha : a < 16) (hb : b < 16) (hc : c < 16) (hd : d < 16) :
    field (nibbles a b c d) 12 4 = a := by
  simp only [field, nibbles, BitVec.toNat_ofNat]; omega

theorem field_nibbles_x {a b c d : Nat} (hb : b < 16) (hc : c < 16) (hd : d < 16) :
    field (nibbles a b c d) 8 4 = b := by
  simp only [field, nibbles, BitVec.toNat_ofNat]; omega

theorem field_nibbles_y {a b c d : Nat} (hc : c < 16) (hd : d < 16) :
    field (nibbles a b c d) 4 4 = c := by
  simp only [field, nibbles, BitVec.toNat_ofNat]; omega

theorem field_nibbles_n {a b c d : Nat} (hd : d < 16) :
    field (nibbles a b c d) 0 4 = d := by
  simp only [field, nibbles, BitVec.toNat_ofNat]; omega

theorem field_formXNN_op {a : Nat} (x : RegIdx) (nn : Byte) (ha : a < 16) : field (formXNN a x nn) 12 4 = a := by
  simp only [field, formXNN, BitVec.toNat_ofNat]; omega

theorem field_formXNN_x (a : Nat) (x : RegIdx) (nn : Byte) : field (formXNN a x nn) 8 4 = x := by
  simp only [field, formXNN, BitVec.toNat_ofNat]; omega

theorem field_formXNN_nn (a : Nat) (x : RegIdx) (nn : Byte) :
    field (formXNN a x nn) 0 8 = nn.toNat := by
  simp only [field, formXNN, BitVec.toNat_ofNat]; omega

theorem field_formNNN_op {a : Nat} (nnn : Addr) (ha : a < 16) : field (formNNN a nnn) 12 4 = a := by
  simp only [field, formNNN, BitVec.toNat_ofNat]; omega

theorem field_formNNN_nnn (a : Nat) (nnn : Addr) : field (formNNN a nnn) 0 12 = nnn.toNat := by
  simp only [field, formNNN, BitVec.toNat_ofNat]; omega

theorem field_formWide_op (dc : BitVec 8) {d : Nat} (hd : d < 16) : field (formWide dc d) 12 4 = 0 := by
  simp only [field, formWide, BitVec.toNat_ofNat]; omega

theorem field_formWide_dc (dc : BitVec 8) {d : Nat} (hd : d < 16) : field (formWide dc d) 4 8 = dc.toNat := by
  simp only [field, formWide, BitVec.toNat_ofNat]; omega

theorem field_formWide_n (dc : BitVec 8) {d : Nat} (hd : d < 16) : field (formWide dc d) 0 4 = d := by
  simp only [field, formWide, BitVec.toNat_ofNat]; omega

/-- The bytes of a word, put together again, are the word (R25). -/
@[simp] theorem wordOfBytes_bytes (w : Word) : wordOfBytes (highByte w) (lowByte w) = w := by
  apply BitVec.eq_of_toNat_eq
  simp only [wordOfBytes, highByte, lowByte, BitVec.toNat_ofNat]; omega

end Sys2Proof
end

