-- ==== Sys2Proof/Laws/Display.lean ====
section
/-! SUPPORT. The laws of the display buffer: a toggle, the drawing loop, and the off-screen rule. -/

namespace Sys2Proof.Machine

@[simp] theorem Display.pix_clear (p : Pixel) : Display.clear.pix p = false := by
  simp [Display.clear, Display.pix]

/-- A toggle inverts its pixel and no other. -/
theorem Display.pix_toggle (d : Display) (p q : Pixel) :
    (d.toggle p).pix q = (d.pix q ^^ decide (q = p)) := by
  obtain ⟨px, py⟩ := p
  obtain ⟨qx, qy⟩ := q
  simp only [Display.toggle, Display.pix, Fin.getElem_fin, Vector.getElem_set, Prod.mk.injEq]
  by_cases hy : qy = py
  · subst hy
    by_cases hx : qx = px
    · subst hx; simp
    · have : px.val ≠ qx.val := fun h => hx (Fin.ext h.symm)
      simp [hx, this]
  · have : py.val ≠ qy.val := fun h => hy (Fin.ext h.symm)
    simp [hy, this]

/-- Displays with equal pixels are equal. -/
theorem Display.ext_pix {d d' : Display} (h : ∀ p, d.pix p = d'.pix p) : d = d' := by
  apply Vector.ext
  intro y hy
  apply Vector.ext
  intro x hx
  exact h (⟨x, hx⟩, ⟨y, hy⟩)

/-- The drawing loop inverts each pixel as often as it is a target; with no target twice, exactly the targets. -/
theorem pix_drawPixels : ∀ (ps : List Pixel) (d : Display) (c : Bool), ps.Nodup → ∀ q,
    (drawPixels ps d c).1.pix q = (d.pix q ^^ decide (q ∈ ps))
  | [], d, c, _, q => by simp [drawPixels]
  | p :: ps, d, c, hn, q => by
    rw [List.nodup_cons] at hn
    rw [drawPixels, pix_drawPixels ps _ _ hn.2 q, Display.pix_toggle]
    by_cases h : q = p
    · subst h; simp [hn.1]
    · simp [h]

/-- The collision flag of the drawing loop: some target was set when the draw started. -/
theorem collision_drawPixels : ∀ (ps : List Pixel) (d : Display) (c : Bool), ps.Nodup →
    (drawPixels ps d c).2 = (c || ps.any d.pix)
  | [], d, c, _ => by simp [drawPixels]
  | p :: ps, d, c, hn => by
    rw [List.nodup_cons] at hn
    have hany : ps.any (d.toggle p).pix = ps.any d.pix := by
      rw [Bool.eq_iff_iff]
      simp only [List.any_eq_true]
      constructor
      · rintro ⟨q, hq, h⟩
        refine ⟨q, hq, ?_⟩
        have hne : q ≠ p := fun e => hn.1 (e ▸ hq)
        simpa [Display.pix_toggle, hne] using h
      · rintro ⟨q, hq, h⟩
        refine ⟨q, hq, ?_⟩
        have hne : q ≠ p := fun e => hn.1 (e ▸ hq)
        simpa [Display.pix_toggle, hne] using h
    rw [drawPixels, collision_drawPixels ps _ _ hn.2, hany, List.any_cons, Bool.or_assoc]

/-- The set bits of a row are bit indexes of a byte. -/
theorem mem_spriteBits {row : Byte} {b : Nat} : b ∈ spriteBits row ↔ b < 8 ∧ row.getMsbD b = true := by
  simp [spriteBits]

/-- The targets of a sprite: a set bit of a row at its place (R58). -/
theorem mem_spriteTargets (vx : Nat) : ∀ (rows : List Byte) (vy : Nat) (p : Nat × Nat),
    p ∈ spriteTargets vx vy rows ↔
      ∃ (r b : Nat) (h : r < rows.length), b < 8 ∧ rows[r].getMsbD b = true ∧ p = (vx + b, vy + r)
  | [], vy, p => by simp [spriteTargets]
  | row :: rows, vy, p => by
    rw [spriteTargets, List.mem_append, mem_spriteTargets vx rows (vy + 1) p]
    simp only [List.mem_map, mem_spriteBits]
    constructor
    · rintro (⟨b, ⟨hb, hset⟩, rfl⟩ | ⟨r, b, h, hb, hset, rfl⟩)
      · exact ⟨0, b, by simp, hb, by simpa using hset, rfl⟩
      · exact ⟨r + 1, b, by simpa using h, hb, by simpa using hset, by simp; omega⟩
    · rintro ⟨r, b, h, hb, hset, rfl⟩
      cases r with
      | zero => exact .inl ⟨b, ⟨hb, by simpa using hset⟩, rfl⟩
      | succ r =>
        exact .inr ⟨r, b, by simpa using h, hb, by simpa using hset, by simp; omega⟩

end Sys2Proof.Machine
end

