-- ==== Sys2Proof/Laws/Memory.lean ====
section
/-! SUPPORT. The laws of memory: read after write, the frame of a write, the canonical form and its uniqueness, and the same for blocks. -/

namespace Sys2Proof.Machine

namespace Memory

/-- A canonical memory from `lo + 1` on is one from `lo` on. -/
theorem wfFrom_mono {lo hi : Nat} (h : lo ≤ hi) : ∀ {m : Memory}, m.wfFrom hi = true → m.wfFrom lo = true
  | [], _ => rfl
  | (a, v) :: rest, hw => by
    simp only [wfFrom, Bool.and_eq_true, decide_eq_true_eq] at hw ⊢
    exact ⟨⟨⟨h.trans hw.1.1.1, hw.1.1.2⟩, hw.1.2⟩, hw.2⟩

/-- Below its first cell a canonical memory reads as unlisted. -/
theorem read_below {a lo : Nat} (h : a < lo) : ∀ {m : Memory}, m.wfFrom lo = true → m.read a = unlistedByte a
  | [], _ => rfl
  | (b, v) :: rest, hw => by
    simp only [wfFrom, Bool.and_eq_true, decide_eq_true_eq] at hw
    have hb : a ≠ b := by omega
    simp only [read, hb, if_false]
    exact read_below (by omega) hw.2

/-- A write leaves every other byte alone (R35); this holds of any list of cells. -/
theorem read_write_other {a b : Nat} (h : b ≠ a) (v : Byte) : ∀ m : Memory, (m.write a v).read b = m.read b
  | [] => by
    unfold write
    split <;> simp [read, h]
  | (c, u) :: rest => by
    unfold write
    by_cases h1 : a < c
    · by_cases h2 : v = unlistedByte a <;> simp [h1, h2, read, h]
    · by_cases h3 : a = c
      · subst h3
        by_cases h2 : v = unlistedByte a <;> simp [h2, read, h]
      · by_cases hb : b = c
        · simp [h1, h3, read, hb]
        · simp [h1, h3, read, hb, read_write_other h v rest]

/-- A read of the byte written gives the byte (R32, R35). -/
theorem read_write_same_from (a : Nat) (v : Byte) :
    ∀ {lo : Nat} {m : Memory}, m.wfFrom lo = true → (m.write a v).read a = v
  | _, [], _ => by
    unfold write
    split <;> simp_all [read]
  | lo, (c, u) :: rest, hw => by
    have hw0 := hw
    simp only [wfFrom, Bool.and_eq_true, decide_eq_true_eq] at hw
    unfold write
    by_cases h1 : a < c
    · by_cases h2 : v = unlistedByte a
      · have h3 : a ≠ c := by omega
        simp only [h1, h2, if_true, read, h3, if_false]
        exact read_below (by omega) hw.2
      · simp [h1, h2, read]
    · by_cases h3 : a = c
      · subst h3
        by_cases h2 : v = unlistedByte a
        · simp only [lt_irrefl, if_false, if_true, h2]
          exact read_below (Nat.lt_succ_self a) hw.2
        · simp [h2, read]
      · simp only [h1, h3, if_false, read]
        exact read_write_same_from a v hw.2

theorem read_write_same {m : Memory} (hw : m.wf = true) (a : Nat) (v : Byte) : (m.write a v).read a = v :=
  read_write_same_from a v hw

/-- A write keeps the canonical form. -/
theorem wfFrom_write {a : Nat} (ha : a < Config.memSize) (v : Byte) :
    ∀ {lo : Nat} {m : Memory}, lo ≤ a → m.wfFrom lo = true → (m.write a v).wfFrom lo = true
  | lo, [], hlo, _ => by
    unfold write
    split <;> simp_all [wfFrom]
  | lo, (c, u) :: rest, hlo, hw => by
    have hw0 := hw
    simp only [wfFrom, Bool.and_eq_true, decide_eq_true_eq, bne_iff_ne, ne_eq] at hw
    obtain ⟨⟨⟨h1, h2⟩, h3⟩, h4⟩ := hw
    unfold write
    by_cases hac : a < c
    · by_cases hv : v = unlistedByte a
      · simpa [hac, hv] using hw0
      · simp only [hac, hv, if_true, if_false, wfFrom, Bool.and_eq_true, decide_eq_true_eq, bne_iff_ne, ne_eq]
        exact ⟨⟨⟨hlo, ha⟩, not_false⟩, ⟨⟨by omega, h2⟩, h3⟩, h4⟩
    · by_cases he : a = c
      · subst he
        by_cases hv : v = unlistedByte a
        · simp only [lt_irrefl, if_false, if_true, hv]
          exact wfFrom_mono (by omega) h4
        · simp only [lt_irrefl, if_false, if_true, hv, wfFrom, Bool.and_eq_true, decide_eq_true_eq, bne_iff_ne, ne_eq]
          exact ⟨⟨⟨hlo, ha⟩, not_false⟩, h4⟩
      · simp only [hac, he, if_false, wfFrom, Bool.and_eq_true, decide_eq_true_eq, bne_iff_ne, ne_eq]
        exact ⟨⟨⟨h1, h2⟩, h3⟩, wfFrom_write ha v (by omega) h4⟩

theorem wf_write {m : Memory} (hw : m.wf = true) {a : Nat} (ha : a < Config.memSize) (v : Byte) :
    (m.write a v).wf = true :=
  wfFrom_write ha v (Nat.zero_le a) hw

/-- Outside memory a canonical memory lists nothing. -/
theorem read_outside {a : Nat} (ha : Config.memSize ≤ a) :
    ∀ {lo : Nat} {m : Memory}, m.wfFrom lo = true → m.read a = unlistedByte a
  | _, [], _ => rfl
  | lo, (b, v) :: rest, hw => by
    simp only [wfFrom, Bool.and_eq_true, decide_eq_true_eq] at hw
    have hb : a ≠ b := by omega
    simp only [read, hb, if_false]
    exact read_outside ha hw.2

/-- Canonical memories that read alike are equal data. -/
theorem eq_of_read_eq : ∀ {lo lo' : Nat} {m m' : Memory}, m.wfFrom lo = true → m'.wfFrom lo' = true →
    (∀ a, m.read a = m'.read a) → m = m'
  | _, _, [], [], _, _, _ => rfl
  | lo, lo', [], (b, u) :: rest, _, hw', h => by
    simp only [wfFrom, Bool.and_eq_true, bne_iff_ne, ne_eq] at hw'
    have := h b
    simp [read] at this
    exact absurd this.symm hw'.1.2
  | lo, lo', (a, v) :: rest, [], hw, _, h => by
    simp only [wfFrom, Bool.and_eq_true, bne_iff_ne, ne_eq] at hw
    have := h a
    simp [read] at this
    exact absurd this hw.1.2
  | lo, lo', (a, v) :: rest, (b, u) :: rest', hw, hw', h => by
    simp only [wfFrom, Bool.and_eq_true, decide_eq_true_eq, bne_iff_ne, ne_eq] at hw hw'
    have hab : a = b := by
      rcases Nat.lt_trichotomy a b with hlt | heq | hgt
      · have h1 := h a
        simp only [read, if_true, hlt.ne, if_false] at h1
        rw [read_below (by omega) hw'.2] at h1
        exact absurd h1 hw.1.2
      · exact heq
      · have h1 := h b
        simp only [read, if_true, hgt.ne, if_false] at h1
        rw [read_below (by omega) hw.2] at h1
        exact absurd h1.symm hw'.1.2
    subst hab
    have hvu : v = u := by simpa [read] using h a
    subst hvu
    have hrest : rest = rest' := by
      refine eq_of_read_eq hw.2 hw'.2 fun c => ?_
      by_cases hc : c = a
      · subst hc
        rw [read_below (Nat.lt_succ_self c) hw.2, read_below (Nat.lt_succ_self c) hw'.2]
      · simpa [read, hc] using h c
    rw [hrest]

/-- A block write leaves every byte outside the block alone. -/
theorem read_writeBytes_outside : ∀ (vs : List Byte) (base : Nat) (m : Memory) {a : Nat},
    (a < base ∨ base + vs.length ≤ a) → (m.writeBytes base vs).read a = m.read a
  | [], _, _, _, _ => rfl
  | v :: vs, base, m, a, h => by
    simp only [List.length_cons] at h
    rw [writeBytes, read_writeBytes_outside vs (base + 1) _ (by omega), read_write_other (by omega)]

/-- A block write keeps the canonical form when the block lies in memory. -/
theorem wf_writeBytes : ∀ (vs : List Byte) (base : Nat) {m : Memory}, m.wf = true →
    base + vs.length ≤ Config.memSize → (m.writeBytes base vs).wf = true
  | [], _, _, hw, _ => hw
  | v :: vs, base, m, hw, h => by
    simp only [List.length_cons] at h
    exact wf_writeBytes vs (base + 1) (wf_write hw (by omega) v) (by omega)

/-- A block write puts each byte in its place; the block lies in memory. -/
theorem read_writeBytes_inside : ∀ (vs : List Byte) (base : Nat) {m : Memory}, m.wf = true →
    base + vs.length ≤ Config.memSize → ∀ (k : Nat) (hk : k < vs.length),
    (m.writeBytes base vs).read (base + k) = vs[k]
  | v :: vs, base, m, hw, h, 0, _ => by
    rw [writeBytes, read_writeBytes_outside vs (base + 1) _ (by omega)]
    exact read_write_same hw base v
  | v :: vs, base, m, hw, h, k + 1, hk => by
    simp only [List.length_cons] at h hk
    have hb : base < Config.memSize := by omega
    have := read_writeBytes_inside vs (base + 1) (wf_write hw hb v) (by omega) k (by omega)
    rw [writeBytes, show base + (k + 1) = base + 1 + k by omega, this, List.getElem_cons_succ]

@[simp] theorem length_readBytes (m : Memory) : ∀ (len base : Nat), (m.readBytes base len).length = len
  | 0, _ => rfl
  | len + 1, base => by simp [readBytes, length_readBytes m len]

/-- A block read gives the bytes in ascending order. -/
theorem getElem_readBytes (m : Memory) : ∀ (len base k : Nat) (hk : k < (m.readBytes base len).length),
    (m.readBytes base len)[k] = m.read (base + k)
  | len + 1, base, 0, _ => rfl
  | len + 1, base, k + 1, hk => by
    have := getElem_readBytes m len (base + 1) k (by simpa [readBytes] using hk)
    simp only [readBytes, List.getElem_cons_succ, this]
    congr 1; omega

end Memory

/-- What the range check answers (R30). -/
theorem firstOutside_eq_none {base len : Nat} :
    firstOutside base len = none ↔ len = 0 ∨ base + len ≤ Config.memSize := by
  unfold firstOutside
  split <;> simp_all

/-- The address the range check reports is the first one outside (R30, R108). -/
theorem firstOutside_eq_some {base len a : Nat} (h : firstOutside base len = some a) :
    Config.memSize ≤ a ∧ base ≤ a ∧ a < base + len ∧ ∀ b, base ≤ b → b < a → b < Config.memSize := by
  unfold firstOutside at h
  split at h
  · cases h
  · next hn =>
    cases h
    simp only [Config.memSize, not_or, not_le] at hn ⊢
    refine ⟨by omega, by omega, ?_, ?_⟩
    · have := hn.1; omega
    · intro b h1 h2; omega

end Sys2Proof.Machine
end

