-- ==== Sys2Proof/Laws/State.lean ====
section
/-! SUPPORT. One lemma a field an update of the state, true by rfl, and what a register read gives after an update. -/

namespace Sys2Proof.Machine

variable (s : State)

@[simp] theorem State.mem_setReg (r : RegIdx) (v : Byte) : (s.setReg r v).mem = s.mem := rfl
@[simp] theorem State.regs_setReg (r : RegIdx) (v : Byte) : (s.setReg r v).regs = s.regs.set r v := rfl
@[simp] theorem State.I_setReg (r : RegIdx) (v : Byte) : (s.setReg r v).I = s.I := rfl
@[simp] theorem State.pc_setReg (r : RegIdx) (v : Byte) : (s.setReg r v).pc = s.pc := rfl
@[simp] theorem State.stack_setReg (r : RegIdx) (v : Byte) : (s.setReg r v).stack = s.stack := rfl
@[simp] theorem State.DT_setReg (r : RegIdx) (v : Byte) : (s.setReg r v).DT = s.DT := rfl
@[simp] theorem State.ST_setReg (r : RegIdx) (v : Byte) : (s.setReg r v).ST = s.ST := rfl
@[simp] theorem State.display_setReg (r : RegIdx) (v : Byte) : (s.setReg r v).display = s.display := rfl
@[simp] theorem State.keys_setReg (r : RegIdx) (v : Byte) : (s.setReg r v).keys = s.keys := rfl
@[simp] theorem State.wait_setReg (r : RegIdx) (v : Byte) : (s.setReg r v).wait = s.wait := rfl
@[simp] theorem State.run_setReg (r : RegIdx) (v : Byte) : (s.setReg r v).run = s.run := rfl
@[simp] theorem State.params_setReg (r : RegIdx) (v : Byte) : (s.setReg r v).params = s.params := rfl
@[simp] theorem State.draws_setReg (r : RegIdx) (v : Byte) : (s.setReg r v).draws = s.draws := rfl
@[simp] theorem State.sp_setReg (r : RegIdx) (v : Byte) : (s.setReg r v).sp = s.sp := rfl

@[simp] theorem State.mem_setRegs (regs : RegFile) : (s.setRegs regs).mem = s.mem := rfl
@[simp] theorem State.regs_setRegs (regs : RegFile) : (s.setRegs regs).regs = regs := rfl
@[simp] theorem State.I_setRegs (regs : RegFile) : (s.setRegs regs).I = s.I := rfl
@[simp] theorem State.pc_setRegs (regs : RegFile) : (s.setRegs regs).pc = s.pc := rfl
@[simp] theorem State.stack_setRegs (regs : RegFile) : (s.setRegs regs).stack = s.stack := rfl
@[simp] theorem State.DT_setRegs (regs : RegFile) : (s.setRegs regs).DT = s.DT := rfl
@[simp] theorem State.ST_setRegs (regs : RegFile) : (s.setRegs regs).ST = s.ST := rfl
@[simp] theorem State.display_setRegs (regs : RegFile) : (s.setRegs regs).display = s.display := rfl
@[simp] theorem State.keys_setRegs (regs : RegFile) : (s.setRegs regs).keys = s.keys := rfl
@[simp] theorem State.wait_setRegs (regs : RegFile) : (s.setRegs regs).wait = s.wait := rfl
@[simp] theorem State.run_setRegs (regs : RegFile) : (s.setRegs regs).run = s.run := rfl
@[simp] theorem State.params_setRegs (regs : RegFile) : (s.setRegs regs).params = s.params := rfl
@[simp] theorem State.draws_setRegs (regs : RegFile) : (s.setRegs regs).draws = s.draws := rfl
@[simp] theorem State.sp_setRegs (regs : RegFile) : (s.setRegs regs).sp = s.sp := rfl

@[simp] theorem State.mem_setMem (m : Memory) : (s.setMem m).mem = m := rfl
@[simp] theorem State.regs_setMem (m : Memory) : (s.setMem m).regs = s.regs := rfl
@[simp] theorem State.I_setMem (m : Memory) : (s.setMem m).I = s.I := rfl
@[simp] theorem State.pc_setMem (m : Memory) : (s.setMem m).pc = s.pc := rfl
@[simp] theorem State.stack_setMem (m : Memory) : (s.setMem m).stack = s.stack := rfl
@[simp] theorem State.DT_setMem (m : Memory) : (s.setMem m).DT = s.DT := rfl
@[simp] theorem State.ST_setMem (m : Memory) : (s.setMem m).ST = s.ST := rfl
@[simp] theorem State.display_setMem (m : Memory) : (s.setMem m).display = s.display := rfl
@[simp] theorem State.keys_setMem (m : Memory) : (s.setMem m).keys = s.keys := rfl
@[simp] theorem State.wait_setMem (m : Memory) : (s.setMem m).wait = s.wait := rfl
@[simp] theorem State.run_setMem (m : Memory) : (s.setMem m).run = s.run := rfl
@[simp] theorem State.params_setMem (m : Memory) : (s.setMem m).params = s.params := rfl
@[simp] theorem State.draws_setMem (m : Memory) : (s.setMem m).draws = s.draws := rfl
@[simp] theorem State.reg_setMem (m : Memory) (q : RegIdx) : (s.setMem m).reg q = s.reg q := rfl
@[simp] theorem State.sp_setMem (m : Memory) : (s.setMem m).sp = s.sp := rfl

@[simp] theorem State.mem_setI (v : Nat) : (s.setI v).mem = s.mem := rfl
@[simp] theorem State.regs_setI (v : Nat) : (s.setI v).regs = s.regs := rfl
@[simp] theorem State.I_setI (v : Nat) : (s.setI v).I = BitVec.ofNat 16 v := rfl
@[simp] theorem State.pc_setI (v : Nat) : (s.setI v).pc = s.pc := rfl
@[simp] theorem State.stack_setI (v : Nat) : (s.setI v).stack = s.stack := rfl
@[simp] theorem State.DT_setI (v : Nat) : (s.setI v).DT = s.DT := rfl
@[simp] theorem State.ST_setI (v : Nat) : (s.setI v).ST = s.ST := rfl
@[simp] theorem State.display_setI (v : Nat) : (s.setI v).display = s.display := rfl
@[simp] theorem State.keys_setI (v : Nat) : (s.setI v).keys = s.keys := rfl
@[simp] theorem State.wait_setI (v : Nat) : (s.setI v).wait = s.wait := rfl
@[simp] theorem State.run_setI (v : Nat) : (s.setI v).run = s.run := rfl
@[simp] theorem State.params_setI (v : Nat) : (s.setI v).params = s.params := rfl
@[simp] theorem State.draws_setI (v : Nat) : (s.setI v).draws = s.draws := rfl
@[simp] theorem State.reg_setI (v : Nat) (q : RegIdx) : (s.setI v).reg q = s.reg q := rfl
@[simp] theorem State.sp_setI (v : Nat) : (s.setI v).sp = s.sp := rfl

@[simp] theorem State.mem_setPc (v : Nat) : (s.setPc v).mem = s.mem := rfl
@[simp] theorem State.regs_setPc (v : Nat) : (s.setPc v).regs = s.regs := rfl
@[simp] theorem State.I_setPc (v : Nat) : (s.setPc v).I = s.I := rfl
@[simp] theorem State.pc_setPc (v : Nat) : (s.setPc v).pc = BitVec.ofNat 16 v := rfl
@[simp] theorem State.stack_setPc (v : Nat) : (s.setPc v).stack = s.stack := rfl
@[simp] theorem State.DT_setPc (v : Nat) : (s.setPc v).DT = s.DT := rfl
@[simp] theorem State.ST_setPc (v : Nat) : (s.setPc v).ST = s.ST := rfl
@[simp] theorem State.display_setPc (v : Nat) : (s.setPc v).display = s.display := rfl
@[simp] theorem State.keys_setPc (v : Nat) : (s.setPc v).keys = s.keys := rfl
@[simp] theorem State.wait_setPc (v : Nat) : (s.setPc v).wait = s.wait := rfl
@[simp] theorem State.run_setPc (v : Nat) : (s.setPc v).run = s.run := rfl
@[simp] theorem State.params_setPc (v : Nat) : (s.setPc v).params = s.params := rfl
@[simp] theorem State.draws_setPc (v : Nat) : (s.setPc v).draws = s.draws := rfl
@[simp] theorem State.reg_setPc (v : Nat) (q : RegIdx) : (s.setPc v).reg q = s.reg q := rfl
@[simp] theorem State.sp_setPc (v : Nat) : (s.setPc v).sp = s.sp := rfl

@[simp] theorem State.mem_advance : (s.advance).mem = s.mem := rfl
@[simp] theorem State.regs_advance : (s.advance).regs = s.regs := rfl
@[simp] theorem State.I_advance : (s.advance).I = s.I := rfl
@[simp] theorem State.pc_advance : (s.advance).pc = BitVec.ofNat 16 (s.pc.toNat + 2) := rfl
@[simp] theorem State.stack_advance : (s.advance).stack = s.stack := rfl
@[simp] theorem State.DT_advance : (s.advance).DT = s.DT := rfl
@[simp] theorem State.ST_advance : (s.advance).ST = s.ST := rfl
@[simp] theorem State.display_advance : (s.advance).display = s.display := rfl
@[simp] theorem State.keys_advance : (s.advance).keys = s.keys := rfl
@[simp] theorem State.wait_advance : (s.advance).wait = s.wait := rfl
@[simp] theorem State.run_advance : (s.advance).run = s.run := rfl
@[simp] theorem State.params_advance : (s.advance).params = s.params := rfl
@[simp] theorem State.draws_advance : (s.advance).draws = s.draws := rfl
@[simp] theorem State.reg_advance (q : RegIdx) : (s.advance).reg q = s.reg q := rfl
@[simp] theorem State.sp_advance : (s.advance).sp = s.sp := rfl

@[simp] theorem State.mem_setDT (v : Byte) : (s.setDT v).mem = s.mem := rfl
@[simp] theorem State.regs_setDT (v : Byte) : (s.setDT v).regs = s.regs := rfl
@[simp] theorem State.I_setDT (v : Byte) : (s.setDT v).I = s.I := rfl
@[simp] theorem State.pc_setDT (v : Byte) : (s.setDT v).pc = s.pc := rfl
@[simp] theorem State.stack_setDT (v : Byte) : (s.setDT v).stack = s.stack := rfl
@[simp] theorem State.DT_setDT (v : Byte) : (s.setDT v).DT = v := rfl
@[simp] theorem State.ST_setDT (v : Byte) : (s.setDT v).ST = s.ST := rfl
@[simp] theorem State.display_setDT (v : Byte) : (s.setDT v).display = s.display := rfl
@[simp] theorem State.keys_setDT (v : Byte) : (s.setDT v).keys = s.keys := rfl
@[simp] theorem State.wait_setDT (v : Byte) : (s.setDT v).wait = s.wait := rfl
@[simp] theorem State.run_setDT (v : Byte) : (s.setDT v).run = s.run := rfl
@[simp] theorem State.params_setDT (v : Byte) : (s.setDT v).params = s.params := rfl
@[simp] theorem State.draws_setDT (v : Byte) : (s.setDT v).draws = s.draws := rfl
@[simp] theorem State.reg_setDT (v : Byte) (q : RegIdx) : (s.setDT v).reg q = s.reg q := rfl
@[simp] theorem State.sp_setDT (v : Byte) : (s.setDT v).sp = s.sp := rfl

@[simp] theorem State.mem_setST (v : Byte) : (s.setST v).mem = s.mem := rfl
@[simp] theorem State.regs_setST (v : Byte) : (s.setST v).regs = s.regs := rfl
@[simp] theorem State.I_setST (v : Byte) : (s.setST v).I = s.I := rfl
@[simp] theorem State.pc_setST (v : Byte) : (s.setST v).pc = s.pc := rfl
@[simp] theorem State.stack_setST (v : Byte) : (s.setST v).stack = s.stack := rfl
@[simp] theorem State.DT_setST (v : Byte) : (s.setST v).DT = s.DT := rfl
@[simp] theorem State.ST_setST (v : Byte) : (s.setST v).ST = v := rfl
@[simp] theorem State.display_setST (v : Byte) : (s.setST v).display = s.display := rfl
@[simp] theorem State.keys_setST (v : Byte) : (s.setST v).keys = s.keys := rfl
@[simp] theorem State.wait_setST (v : Byte) : (s.setST v).wait = s.wait := rfl
@[simp] theorem State.run_setST (v : Byte) : (s.setST v).run = s.run := rfl
@[simp] theorem State.params_setST (v : Byte) : (s.setST v).params = s.params := rfl
@[simp] theorem State.draws_setST (v : Byte) : (s.setST v).draws = s.draws := rfl
@[simp] theorem State.reg_setST (v : Byte) (q : RegIdx) : (s.setST v).reg q = s.reg q := rfl
@[simp] theorem State.sp_setST (v : Byte) : (s.setST v).sp = s.sp := rfl

@[simp] theorem State.mem_setDisplay (d : Display) : (s.setDisplay d).mem = s.mem := rfl
@[simp] theorem State.regs_setDisplay (d : Display) : (s.setDisplay d).regs = s.regs := rfl
@[simp] theorem State.I_setDisplay (d : Display) : (s.setDisplay d).I = s.I := rfl
@[simp] theorem State.pc_setDisplay (d : Display) : (s.setDisplay d).pc = s.pc := rfl
@[simp] theorem State.stack_setDisplay (d : Display) : (s.setDisplay d).stack = s.stack := rfl
@[simp] theorem State.DT_setDisplay (d : Display) : (s.setDisplay d).DT = s.DT := rfl
@[simp] theorem State.ST_setDisplay (d : Display) : (s.setDisplay d).ST = s.ST := rfl
@[simp] theorem State.display_setDisplay (d : Display) : (s.setDisplay d).display = d := rfl
@[simp] theorem State.keys_setDisplay (d : Display) : (s.setDisplay d).keys = s.keys := rfl
@[simp] theorem State.wait_setDisplay (d : Display) : (s.setDisplay d).wait = s.wait := rfl
@[simp] theorem State.run_setDisplay (d : Display) : (s.setDisplay d).run = s.run := rfl
@[simp] theorem State.params_setDisplay (d : Display) : (s.setDisplay d).params = s.params := rfl
@[simp] theorem State.draws_setDisplay (d : Display) : (s.setDisplay d).draws = s.draws := rfl
@[simp] theorem State.reg_setDisplay (d : Display) (q : RegIdx) : (s.setDisplay d).reg q = s.reg q := rfl
@[simp] theorem State.sp_setDisplay (d : Display) : (s.setDisplay d).sp = s.sp := rfl

@[simp] theorem State.mem_setKeys (ks : Keypad) : (s.setKeys ks).mem = s.mem := rfl
@[simp] theorem State.regs_setKeys (ks : Keypad) : (s.setKeys ks).regs = s.regs := rfl
@[simp] theorem State.I_setKeys (ks : Keypad) : (s.setKeys ks).I = s.I := rfl
@[simp] theorem State.pc_setKeys (ks : Keypad) : (s.setKeys ks).pc = s.pc := rfl
@[simp] theorem State.stack_setKeys (ks : Keypad) : (s.setKeys ks).stack = s.stack := rfl
@[simp] theorem State.DT_setKeys (ks : Keypad) : (s.setKeys ks).DT = s.DT := rfl
@[simp] theorem State.ST_setKeys (ks : Keypad) : (s.setKeys ks).ST = s.ST := rfl
@[simp] theorem State.display_setKeys (ks : Keypad) : (s.setKeys ks).display = s.display := rfl
@[simp] theorem State.keys_setKeys (ks : Keypad) : (s.setKeys ks).keys = ks := rfl
@[simp] theorem State.wait_setKeys (ks : Keypad) : (s.setKeys ks).wait = s.wait := rfl
@[simp] theorem State.run_setKeys (ks : Keypad) : (s.setKeys ks).run = s.run := rfl
@[simp] theorem State.params_setKeys (ks : Keypad) : (s.setKeys ks).params = s.params := rfl
@[simp] theorem State.draws_setKeys (ks : Keypad) : (s.setKeys ks).draws = s.draws := rfl
@[simp] theorem State.reg_setKeys (ks : Keypad) (q : RegIdx) : (s.setKeys ks).reg q = s.reg q := rfl
@[simp] theorem State.sp_setKeys (ks : Keypad) : (s.setKeys ks).sp = s.sp := rfl

@[simp] theorem State.mem_setWait (w : WaitState) : (s.setWait w).mem = s.mem := rfl
@[simp] theorem State.regs_setWait (w : WaitState) : (s.setWait w).regs = s.regs := rfl
@[simp] theorem State.I_setWait (w : WaitState) : (s.setWait w).I = s.I := rfl
@[simp] theorem State.pc_setWait (w : WaitState) : (s.setWait w).pc = s.pc := rfl
@[simp] theorem State.stack_setWait (w : WaitState) : (s.setWait w).stack = s.stack := rfl
@[simp] theorem State.DT_setWait (w : WaitState) : (s.setWait w).DT = s.DT := rfl
@[simp] theorem State.ST_setWait (w : WaitState) : (s.setWait w).ST = s.ST := rfl
@[simp] theorem State.display_setWait (w : WaitState) : (s.setWait w).display = s.display := rfl
@[simp] theorem State.keys_setWait (w : WaitState) : (s.setWait w).keys = s.keys := rfl
@[simp] theorem State.wait_setWait (w : WaitState) : (s.setWait w).wait = w := rfl
@[simp] theorem State.run_setWait (w : WaitState) : (s.setWait w).run = s.run := rfl
@[simp] theorem State.params_setWait (w : WaitState) : (s.setWait w).params = s.params := rfl
@[simp] theorem State.draws_setWait (w : WaitState) : (s.setWait w).draws = s.draws := rfl
@[simp] theorem State.reg_setWait (w : WaitState) (q : RegIdx) : (s.setWait w).reg q = s.reg q := rfl
@[simp] theorem State.sp_setWait (w : WaitState) : (s.setWait w).sp = s.sp := rfl

@[simp] theorem State.mem_setRun (r : RunState) : (s.setRun r).mem = s.mem := rfl
@[simp] theorem State.regs_setRun (r : RunState) : (s.setRun r).regs = s.regs := rfl
@[simp] theorem State.I_setRun (r : RunState) : (s.setRun r).I = s.I := rfl
@[simp] theorem State.pc_setRun (r : RunState) : (s.setRun r).pc = s.pc := rfl
@[simp] theorem State.stack_setRun (r : RunState) : (s.setRun r).stack = s.stack := rfl
@[simp] theorem State.DT_setRun (r : RunState) : (s.setRun r).DT = s.DT := rfl
@[simp] theorem State.ST_setRun (r : RunState) : (s.setRun r).ST = s.ST := rfl
@[simp] theorem State.display_setRun (r : RunState) : (s.setRun r).display = s.display := rfl
@[simp] theorem State.keys_setRun (r : RunState) : (s.setRun r).keys = s.keys := rfl
@[simp] theorem State.wait_setRun (r : RunState) : (s.setRun r).wait = s.wait := rfl
@[simp] theorem State.run_setRun (r : RunState) : (s.setRun r).run = r := rfl
@[simp] theorem State.params_setRun (r : RunState) : (s.setRun r).params = s.params := rfl
@[simp] theorem State.draws_setRun (r : RunState) : (s.setRun r).draws = s.draws := rfl
@[simp] theorem State.reg_setRun (r : RunState) (q : RegIdx) : (s.setRun r).reg q = s.reg q := rfl
@[simp] theorem State.sp_setRun (r : RunState) : (s.setRun r).sp = s.sp := rfl

@[simp] theorem State.mem_drawn : (s.drawn).mem = s.mem := rfl
@[simp] theorem State.regs_drawn : (s.drawn).regs = s.regs := rfl
@[simp] theorem State.I_drawn : (s.drawn).I = s.I := rfl
@[simp] theorem State.pc_drawn : (s.drawn).pc = s.pc := rfl
@[simp] theorem State.stack_drawn : (s.drawn).stack = s.stack := rfl
@[simp] theorem State.DT_drawn : (s.drawn).DT = s.DT := rfl
@[simp] theorem State.ST_drawn : (s.drawn).ST = s.ST := rfl
@[simp] theorem State.display_drawn : (s.drawn).display = s.display := rfl
@[simp] theorem State.keys_drawn : (s.drawn).keys = s.keys := rfl
@[simp] theorem State.wait_drawn : (s.drawn).wait = s.wait := rfl
@[simp] theorem State.run_drawn : (s.drawn).run = s.run := rfl
@[simp] theorem State.params_drawn : (s.drawn).params = s.params := rfl
@[simp] theorem State.draws_drawn : (s.drawn).draws = s.draws + 1 := rfl
@[simp] theorem State.reg_drawn (q : RegIdx) : (s.drawn).reg q = s.reg q := rfl
@[simp] theorem State.sp_drawn : (s.drawn).sp = s.sp := rfl

@[simp] theorem State.mem_pushed (a : Word) : (s.pushed a).mem = s.mem := rfl
@[simp] theorem State.regs_pushed (a : Word) : (s.pushed a).regs = s.regs := rfl
@[simp] theorem State.I_pushed (a : Word) : (s.pushed a).I = s.I := rfl
@[simp] theorem State.pc_pushed (a : Word) : (s.pushed a).pc = s.pc := rfl
@[simp] theorem State.stack_pushed (a : Word) : (s.pushed a).stack = a :: s.stack := rfl
@[simp] theorem State.DT_pushed (a : Word) : (s.pushed a).DT = s.DT := rfl
@[simp] theorem State.ST_pushed (a : Word) : (s.pushed a).ST = s.ST := rfl
@[simp] theorem State.display_pushed (a : Word) : (s.pushed a).display = s.display := rfl
@[simp] theorem State.keys_pushed (a : Word) : (s.pushed a).keys = s.keys := rfl
@[simp] theorem State.wait_pushed (a : Word) : (s.pushed a).wait = s.wait := rfl
@[simp] theorem State.run_pushed (a : Word) : (s.pushed a).run = s.run := rfl
@[simp] theorem State.params_pushed (a : Word) : (s.pushed a).params = s.params := rfl
@[simp] theorem State.draws_pushed (a : Word) : (s.pushed a).draws = s.draws := rfl
@[simp] theorem State.reg_pushed (a : Word) (q : RegIdx) : (s.pushed a).reg q = s.reg q := rfl

@[simp] theorem State.mem_popped : (s.popped).mem = s.mem := rfl
@[simp] theorem State.regs_popped : (s.popped).regs = s.regs := rfl
@[simp] theorem State.I_popped : (s.popped).I = s.I := rfl
@[simp] theorem State.pc_popped : (s.popped).pc = s.pc := rfl
@[simp] theorem State.stack_popped : (s.popped).stack = s.stack.tail := rfl
@[simp] theorem State.DT_popped : (s.popped).DT = s.DT := rfl
@[simp] theorem State.ST_popped : (s.popped).ST = s.ST := rfl
@[simp] theorem State.display_popped : (s.popped).display = s.display := rfl
@[simp] theorem State.keys_popped : (s.popped).keys = s.keys := rfl
@[simp] theorem State.wait_popped : (s.popped).wait = s.wait := rfl
@[simp] theorem State.run_popped : (s.popped).run = s.run := rfl
@[simp] theorem State.params_popped : (s.popped).params = s.params := rfl
@[simp] theorem State.draws_popped : (s.popped).draws = s.draws := rfl
@[simp] theorem State.reg_popped (q : RegIdx) : (s.popped).reg q = s.reg q := rfl

/-- A register write is seen by the register written and by no other. -/
@[simp] theorem State.reg_setReg (r : RegIdx) (v : Byte) (q : RegIdx) :
    (s.setReg r v).reg q = if q = r then v else s.reg q := by
  simp only [State.reg, State.setReg, Fin.getElem_fin, Vector.getElem_set, Fin.ext_iff, eq_comm]

@[simp] theorem State.reg_setRegs (regs : RegFile) (q : RegIdx) : (s.setRegs regs).reg q = regs[q] := rfl

@[simp] theorem State.sp_pushed (a : Word) : (s.pushed a).sp = s.sp + 1 := rfl

@[simp] theorem State.sp_popped : s.popped.sp = s.sp - 1 := by
  simp [State.sp, State.popped]

/-- Two states with equal registers read alike have equal register files. -/
theorem regs_eq_of_reg_eq {s t : State} (h : ∀ r, t.reg r = s.reg r) : t.regs = s.regs := by
  apply Vector.ext
  intro k hk
  exact h ⟨k, hk⟩

end Sys2Proof.Machine
end

