-- ==== Sys2Proof/Laws/Ops.lean ====
section
/-! SUPPORT. One spec lemma a shared operation: registers in blocks, faults, skips, fetch, the flag write. -/

namespace Sys2Proof.Machine

/-- A block of registers has the length asked for. -/
@[simp] theorem RegFile.length_block (regs : RegFile) {count : Nat} (h : count ≤ 16) :
    (regs.block count).length = count := by
  simp [RegFile.block, h]

/-- The k-th byte of a block of registers is register k. -/
theorem RegFile.getElem_block (regs : RegFile) {count k : Nat} (h : count ≤ 16)
    (hk : k < (regs.block count).length) : (regs.block count)[k] = regs[k]'(by simp [h] at hk; omega) := by
  simp [RegFile.block]

/-- A register load changes the registers of its block and no other. -/
theorem RegFile.getElem_load : ∀ (vs : List Byte) (base : Nat) (regs : RegFile) (q : Nat) (hq : q < 16),
    (RegFile.load base vs regs)[q] =
      if h : base ≤ q ∧ q < base + vs.length then vs[q - base]'(by omega) else regs[q]
  | [], base, regs, q, hq => by
    have : ¬(base ≤ q ∧ q < base + 0) := by omega
    simp [RegFile.load]
  | v :: vs, base, regs, q, hq => by
    rw [RegFile.load, RegFile.getElem_load vs (base + 1) _ q hq]
    by_cases h1 : base + 1 ≤ q ∧ q < base + 1 + vs.length
    · have h2 : base ≤ q ∧ q < base + (v :: vs).length := by simp only [List.length_cons]; omega
      obtain ⟨k, hk⟩ : ∃ k, q = base + 1 + k := ⟨q - (base + 1), by omega⟩
      subst hk
      simp only [h1, h2, and_self, dite_true]
      simp only [show base + 1 + k - base = k + 1 by omega, show base + 1 + k - (base + 1) = k by omega,
        List.getElem_cons_succ]
    · simp only [h1, dite_false]
      by_cases h3 : q = base
      · subst h3
        simp
      · have h2 : ¬(base ≤ q ∧ q < base + (v :: vs).length) := by simp only [List.length_cons]; omega
        simp only [h2, dite_false]
        simp [Ne.symm h3]

/-- Taking a fault answers a next state that differs in the run state alone (R106). -/
theorem takeFault_eq (f : Fault) (w : Option Word) (a : Word) (s : State) :
    takeFault f w a s = .next (s.setRun (.halted ⟨f, w, s.pc, a⟩)) := rfl

/-- A handler's fault: its record holds the instruction's word and address (R105). -/
theorem raise_eq (i : Instr) (f : Fault) (s : State) :
    raise i f s = .next (s.setRun (.halted ⟨f, some (encode i), s.pc, s.pc - 2⟩)) := rfl

/-- A skip touches `pc` alone. -/
theorem skipIf_eq (c : Bool) (s : State) : skipIf c s = s.setPc (s.pc.toNat + if c then 2 else 0) := by
  cases c
  · cases s
    simp [skipIf, State.setPc]
  · rfl

/-- A fetch that succeeds reads the two bytes at `pc`, big-endian (R25, R52). -/
theorem fetch_eq_ok {s : State} (h : s.pc.toNat + 1 < Config.memSize) :
    s.fetch = .ok (wordOfBytes (s.mem.read s.pc.toNat) (s.mem.read (s.pc.toNat + 1))) := by
  have : firstOutside s.pc.toNat 2 = none := firstOutside_eq_none.2 (.inr (by omega))
  simp [State.fetch, this]

/-- A fetch reads what a read of its two bytes gives (R25, R37). -/
theorem fetchReads_read (t : State) (a : Nat) : FetchReads t a (t.mem.read a).toNat := by
  intro p hp _
  have hv := (t.mem.read a).isLt
  refine ⟨_, fetch_eq_ok hp, ?_, ?_⟩ <;> intro ha <;> subst ha
  · have hl := (t.mem.read (p.toNat + 1)).isLt
    simp only [wordOfBytes, BitVec.toNat_ofNat]; omega
  · have hu := (t.mem.read p.toNat).isLt
    simp only [wordOfBytes, BitVec.toNat_ofNat]; omega

/-- A fetch that fails reports the first address it may not read (R31). -/
theorem fetch_eq_error {s : State} (h : Config.memSize ≤ s.pc.toNat + 1) :
    s.fetch = .error (max s.pc.toNat Config.memSize) := by
  have : ¬((2 : Nat) = 0 ∨ s.pc.toNat + 2 ≤ Config.memSize) := by simp only [Config.memSize] at *; omega
  simp only [State.fetch, firstOutside, this, if_false]

/-- The flag is written last (R73). -/
theorem reg_writeResultFlag (x : RegIdx) (v : Byte) (b : Bool) (s : State) (q : RegIdx) :
    (writeResultFlag x v b s).reg q =
      if q = Config.flagReg then flagByte b else if q = x then v else s.reg q := by
  simp [writeResultFlag]

/-- A result with its flag touches the registers alone. -/
theorem writeResultFlag_eq (x : RegIdx) (v : Byte) (b : Bool) (s : State) :
    writeResultFlag x v b s = s.setRegs ((s.regs.set x v).set Config.flagReg (flagByte b)) := rfl

/-- The key operand is the register's value when that is a key number (R93). -/
theorem keyOperand_eq_some {s : State} {x : RegIdx} {k : Fin 16} :
    keyOperand s x = some k ↔ (s.reg x).toNat = k.val := by
  unfold keyOperand
  split
  · next h => simp [Fin.ext_iff]
  · next h => simp only [reduceCtorEq, false_iff]; omega

theorem keyOperand_eq_none {s : State} {x : RegIdx} : keyOperand s x = none ↔ 16 ≤ (s.reg x).toNat := by
  unfold keyOperand
  split <;> simp <;> omega

end Sys2Proof.Machine
end

