-- ==== Sys2Proof/Laws/PerInstr.lean ====
section
/-! SUPPORT. Statements about every instruction as syntax, one lemma a constructor. -/

namespace Sys2Proof.Laws.InFamily

/-- The family of an instruction, the top nibble of its pattern (R42, R46). -/
def family : Instr → Nat
  | .cls _ | .ret _ => 0x0
  | .jp _ => 0x1
  | .call _ => 0x2
  | .seImm _ _ => 0x3
  | .sneImm _ _ => 0x4
  | .seReg _ _ _ => 0x5
  | .ldImm _ _ => 0x6
  | .addImm _ _ => 0x7
  | .ldReg _ _ | .orReg _ _ | .andReg _ _ | .xorReg _ _ | .addReg _ _ | .subReg _ _ | .shr _ _ | .subn _ _
  | .shl _ _ => 0x8
  | .sneReg _ _ _ => 0x9
  | .ldI _ => 0xA
  | .jpV0 _ => 0xB
  | .rnd _ _ => 0xC
  | .drw _ _ _ => 0xD
  | .skp _ _ | .sknp _ _ => 0xE
  | .ldVxDt _ _ | .ldVxK _ _ | .ldDtVx _ | .ldStVx _ _ | .addIVx _ _ | .ldFVx _ _ | .ldBVx _ _ | .ldMemVx _
  | .ldVxMem _ => 0xF

/-- An instruction's word stands in its family. -/
def Statement (i : Instr) : Prop := opField (encode i) = family i

theorem cls (dc : BitVec 8) : Statement (.cls dc) := field_formWide_op dc (by omega)
theorem ret (dc : BitVec 8) : Statement (.ret dc) := field_formWide_op dc (by omega)
theorem jp (nnn : Addr) : Statement (.jp nnn) := field_formNNN_op nnn (by omega)
theorem call (nnn : Addr) : Statement (.call nnn) := field_formNNN_op nnn (by omega)
theorem seImm (x : RegIdx) (nn : Byte) : Statement (.seImm x nn) := field_formXNN_op x nn (by omega)
theorem sneImm (x : RegIdx) (nn : Byte) : Statement (.sneImm x nn) := field_formXNN_op x nn (by omega)
theorem seReg (x y : RegIdx) (dc : Nibble) : Statement (.seReg x y dc) :=
  field_nibbles_op (by omega) x.isLt y.isLt dc.isLt
theorem ldImm (x : RegIdx) (nn : Byte) : Statement (.ldImm x nn) := field_formXNN_op x nn (by omega)
theorem addImm (x : RegIdx) (nn : Byte) : Statement (.addImm x nn) := field_formXNN_op x nn (by omega)
theorem ldReg (x y : RegIdx) : Statement (.ldReg x y) := field_nibbles_op (by omega) x.isLt y.isLt (by omega)
theorem orReg (x y : RegIdx) : Statement (.orReg x y) := field_nibbles_op (by omega) x.isLt y.isLt (by omega)
theorem andReg (x y : RegIdx) : Statement (.andReg x y) := field_nibbles_op (by omega) x.isLt y.isLt (by omega)
theorem xorReg (x y : RegIdx) : Statement (.xorReg x y) := field_nibbles_op (by omega) x.isLt y.isLt (by omega)
theorem addReg (x y : RegIdx) : Statement (.addReg x y) := field_nibbles_op (by omega) x.isLt y.isLt (by omega)
theorem subReg (x y : RegIdx) : Statement (.subReg x y) := field_nibbles_op (by omega) x.isLt y.isLt (by omega)
theorem shr (x y : RegIdx) : Statement (.shr x y) := field_nibbles_op (by omega) x.isLt y.isLt (by omega)
theorem subn (x y : RegIdx) : Statement (.subn x y) := field_nibbles_op (by omega) x.isLt y.isLt (by omega)
theorem shl (x y : RegIdx) : Statement (.shl x y) := field_nibbles_op (by omega) x.isLt y.isLt (by omega)
theorem sneReg (x y : RegIdx) (dc : Nibble) : Statement (.sneReg x y dc) :=
  field_nibbles_op (by omega) x.isLt y.isLt dc.isLt
theorem ldI (nnn : Addr) : Statement (.ldI nnn) := field_formNNN_op nnn (by omega)
theorem jpV0 (nnn : Addr) : Statement (.jpV0 nnn) := field_formNNN_op nnn (by omega)
theorem rnd (x : RegIdx) (nn : Byte) : Statement (.rnd x nn) := field_formXNN_op x nn (by omega)
theorem drw (x y : RegIdx) (n : Fin 16) : Statement (.drw x y n) := field_nibbles_op (by omega) x.isLt y.isLt n.isLt
theorem skp (x : RegIdx) (dc : Nibble) : Statement (.skp x dc) :=
  field_nibbles_op (by omega) x.isLt dc.isLt (by omega)
theorem sknp (x : RegIdx) (dc : Nibble) : Statement (.sknp x dc) :=
  field_nibbles_op (by omega) x.isLt dc.isLt (by omega)
theorem ldVxDt (x : RegIdx) (dc : Nibble) : Statement (.ldVxDt x dc) :=
  field_nibbles_op (by omega) x.isLt dc.isLt (by omega)
theorem ldVxK (x : RegIdx) (dc : Nibble) : Statement (.ldVxK x dc) :=
  field_nibbles_op (by omega) x.isLt dc.isLt (by omega)
theorem ldDtVx (x : RegIdx) : Statement (.ldDtVx x) := field_nibbles_op (by omega) x.isLt (by omega) (by omega)
theorem ldStVx (x : RegIdx) (dc : Nibble) : Statement (.ldStVx x dc) :=
  field_nibbles_op (by omega) x.isLt dc.isLt (by omega)
theorem addIVx (x : RegIdx) (dc : Nibble) : Statement (.addIVx x dc) :=
  field_nibbles_op (by omega) x.isLt dc.isLt (by omega)
theorem ldFVx (x : RegIdx) (dc : Nibble) : Statement (.ldFVx x dc) :=
  field_nibbles_op (by omega) x.isLt dc.isLt (by omega)
theorem ldBVx (x : RegIdx) (dc : Nibble) : Statement (.ldBVx x dc) :=
  field_nibbles_op (by omega) x.isLt dc.isLt (by omega)
theorem ldMemVx (x : RegIdx) : Statement (.ldMemVx x) := field_nibbles_op (by omega) x.isLt (by omega) (by omega)
theorem ldVxMem (x : RegIdx) : Statement (.ldVxMem x) := field_nibbles_op (by omega) x.isLt (by omega) (by omega)

end Sys2Proof.Laws.InFamily
end

