-- ==== Sys2Proof/Tests/Slice0.lean ====
section
/-! SUPPORT. Tests: the decoder on words written from the patterns of R46, the checks of WellFormed, vectors of 95_test_vectors.md (their ids are in the comments), and a witness for the hypotheses of every statement. -/

namespace Sys2Proof.Tests

open Sys2Proof.Machine

/-- The next state of an answer. -/
def next? : Result → Option State
  | .next s => some s
  | .fault _ => none
  | .refused _ => none

/-- The reset state with the word `w` at 0x200. -/
def placed (w : Nat) : State := State.reset.withFetchWord 16 w

/-- One step with the word `w` at 0x200 of a state prepared by `f`. -/
def after (w : Nat) (f : State → State) : Option State := next? (step (f (placed w)))

/-- The state with other parameters. -/
def withParams (p : Params) (s : State) : State := { s with params := p }

def strictParams : Params := { Params.default with strictDecode := true }
def clipParams : Params := { Params.default with drawOffscreen := .clip }
def wrapParams : Params := { Params.default with drawOffscreen := .wrap }
def borrowParams : Params := { Params.default with borrowPolarity := .borrowIsOne }
def shiftXParams : Params := { Params.default with shiftSource := .x }

/-- The state with bytes written from an address on. -/
def poke (base : Nat) (vs : List Byte) (s : State) : State := s.setMem (s.mem.writeBytes base vs)

/-- The state with a stack of `n` entries 0x202. -/
def stacked (n : Nat) (s : State) : State := { s with stack := List.replicate n 0x202 }

/-- The fault a state halted with. -/
def faultOf (s : State) : Option FaultRecord := s.readFault

/-! ### Decoding: bits written out from the patterns of R46 -/

theorem test_decode_cls : decodeWord true 0b0000000011100000 = some (.cls 0x0E) := by decide
theorem test_decode_ret : decodeWord true 0b0000000011101110 = some (.ret 0x0E) := by decide
theorem test_decode_jp : decodeWord true 0b0001101010111100 = some (.jp 0xABC) := by decide
theorem test_decode_call : decodeWord true 0b0010001000010000 = some (.call 0x210) := by decide
theorem test_decode_seImm : decodeWord true 0b0011001100101010 = some (.seImm 3 0x2A) := by decide
theorem test_decode_sneImm : decodeWord true 0b0100001100101011 = some (.sneImm 3 0x2B) := by decide
theorem test_decode_seReg : decodeWord true 0b0101000100100000 = some (.seReg 1 2 0) := by decide
theorem test_decode_ldImm : decodeWord true 0b0110000000000101 = some (.ldImm 0 5) := by decide
theorem test_decode_addImm : decodeWord true 0b0111001000000011 = some (.addImm 2 3) := by decide
theorem test_decode_ldReg : decodeWord true 0b1000000000010000 = some (.ldReg 0 1) := by decide
theorem test_decode_orReg : decodeWord true 0b1000000000010001 = some (.orReg 0 1) := by decide
theorem test_decode_andReg : decodeWord true 0b1000000000010010 = some (.andReg 0 1) := by decide
theorem test_decode_xorReg : decodeWord true 0b1000000000010011 = some (.xorReg 0 1) := by decide
theorem test_decode_addReg : decodeWord true 0b1000000000010100 = some (.addReg 0 1) := by decide
theorem test_decode_subReg : decodeWord true 0b1000001000010101 = some (.subReg 2 1) := by decide
theorem test_decode_shr : decodeWord true 0b1000001100000110 = some (.shr 3 0) := by decide
theorem test_decode_subn : decodeWord true 0b1000000100100111 = some (.subn 1 2) := by decide
theorem test_decode_shl : decodeWord true 0b1000000000011110 = some (.shl 0 1) := by decide
theorem test_decode_sneReg : decodeWord true 0b1001000100100000 = some (.sneReg 1 2 0) := by decide
theorem test_decode_ldI : decodeWord true 0b1010001100000000 = some (.ldI 0x300) := by decide
theorem test_decode_jpV0 : decodeWord true 0b1011001100000000 = some (.jpV0 0x300) := by decide
theorem test_decode_rnd : decodeWord true 0b1100001100001111 = some (.rnd 3 0x0F) := by decide
theorem test_decode_drw : decodeWord true 0b1101001000110001 = some (.drw 2 3 1) := by decide
theorem test_decode_skp : decodeWord true 0b1110000110011110 = some (.skp 1 9) := by decide
theorem test_decode_sknp : decodeWord true 0b1110000110100001 = some (.sknp 1 0xA) := by decide
theorem test_decode_ldVxDt : decodeWord true 0b1111001100000111 = some (.ldVxDt 3 0) := by decide
theorem test_decode_ldVxK : decodeWord true 0b1111010100001010 = some (.ldVxK 5 0) := by decide
theorem test_decode_ldDtVx : decodeWord true 0b1111010000010101 = some (.ldDtVx 4) := by decide
theorem test_decode_ldStVx : decodeWord true 0b1111010000011000 = some (.ldStVx 4 1) := by decide
theorem test_decode_addIVx : decodeWord true 0b1111001000011110 = some (.addIVx 2 1) := by decide
theorem test_decode_ldFVx : decodeWord true 0b1111000000101001 = some (.ldFVx 0 2) := by decide
theorem test_decode_ldBVx : decodeWord true 0b1111001100110011 = some (.ldBVx 3 3) := by decide
theorem test_decode_ldMemVx : decodeWord true 0b1111001101010101 = some (.ldMemVx 3) := by decide
theorem test_decode_ldVxMem : decodeWord true 0b1111001101100101 = some (.ldVxMem 3) := by decide

/-- D-5 to D-9: words that only the default dispatch accepts. -/
theorem test_default_only_words :
    decodeWord false 0x0000 = some (.cls 0) ∧ decodeWord true 0x0000 = none ∧
    decodeWord false 0x0FFE = some (.ret 0xFF) ∧ decodeWord true 0x0FFE = none ∧
    decodeWord false 0x5121 = some (.seReg 1 2 1) ∧ decodeWord true 0x5121 = none ∧
    decodeWord false 0xE00E = some (.skp 0 0) ∧ decodeWord true 0xE00E = none ∧
    decodeWord false 0xF117 = some (.ldVxDt 1 1) ∧ decodeWord true 0xF117 = none := by decide

/-- D-10: words invalid under both modes. -/
theorem test_invalid_words :
    ([0xF125, 0xF000, 0xF0FF, 0x800F, 0x8008, 0xE0A2, 0x0001, 0x000F] : List Word).all
      (fun w => decodeWord false w == none && decodeWord true w == none) = true := by decide

theorem test_decode_truncated :
    decode false [] = .error .truncated ∧ decode false [0x60] = .error .truncated := ⟨rfl, rfl⟩

theorem test_decode_rejects_by_name : decode false [0x80, 0x08, 0x60] = .error (.invalidInstruction 0x8008) := rfl

theorem test_decode_keeps_the_rest : decode false [0x60, 0x05, 0x12] = .ok (.ldImm 0 5, [0x12]) := rfl

theorem test_decodeTableWord : decodeTableWord 16 0xD231 = some (.drw 2 3 1) := by decide

/-- R46: under each mode, no two rows of the opcode map match one word. Rows that differ in a bit both look at do not
overlap. -/
theorem test_rows_do_not_overlap :
    opcodeTable.Pairwise (fun r q => r.mask &&& q.mask &&& r.matchBits ≠ r.mask &&& q.mask &&& q.matchBits) := by
  decide

/-! ### WellFormed: each check refuses an ill-formed term -/

theorem test_wellFormed_refuses :
    (Instr.cls 0x00).wellFormed true = false ∧ (Instr.ret 0xFF).wellFormed true = false ∧
    (Instr.seReg 1 2 1).wellFormed true = false ∧ (Instr.sneReg 1 2 8).wellFormed true = false ∧
    (Instr.skp 0 0).wellFormed true = false ∧ (Instr.sknp 0 9).wellFormed true = false ∧
    (Instr.ldVxDt 1 1).wellFormed true = false ∧ (Instr.ldVxK 1 1).wellFormed true = false ∧
    (Instr.ldStVx 1 0).wellFormed true = false ∧ (Instr.addIVx 1 0).wellFormed true = false ∧
    (Instr.ldFVx 1 0).wellFormed true = false ∧ (Instr.ldBVx 1 0).wellFormed true = false := by decide

theorem test_wellFormed_default_accepts : (Instr.skp 0 0).wellFormed false = true := rfl

/-! ### The cycle -/

/-- L1.1. -/
theorem test_ldImm : (after 0x6005 id).map (fun t => (t.reg 0, t.pc)) = some (0x05, 0x202) := by decide

/-- D-2: an odd fetch. -/
theorem test_odd_fetch :
    (next? (step ((poke 0x201 [0x61, 0x07] State.reset).setPc 0x201))).map (fun t => (t.reg 1, t.pc)) =
      some (0x07, 0x203) := by decide

/-- D-4: a fetch from 0xFFF. -/
theorem test_fetch_at_the_end :
    (next? (step (State.reset.setPc 0xFFF))).bind faultOf =
      some ⟨.undefinedAccess (.memory 0x1000), none, 0xFFF, 0xFFF⟩ := by decide

/-- D-11. -/
theorem test_invalid_word_halts :
    (after 0x8008 id).bind faultOf = some ⟨.invalidInstruction, some 0x8008, 0x202, 0x200⟩ := by decide

/-- D-5 under strict decoding. -/
theorem test_strict_zero_word_halts :
    (after 0x0000 (withParams strictParams)).bind faultOf =
      some ⟨.invalidInstruction, some 0x0000, 0x202, 0x200⟩ := by decide

/-! ### Instructions -/

/-- G-1. -/
theorem test_cls :
    (after 0x00E0 (fun s => s.setDisplay (s.display.toggle (10, 10)))).map
      (fun t => (t.getPixel 10 10, t.pc)) = some (false, 0x202) := by decide

/-- G-3: the most significant bit is the leftmost pixel. -/
theorem test_drw_bit_order :
    (after 0xD231 (fun s => (poke 0x300 [0x81] (((s.setI 0x300).setReg 2 10).setReg 3 20)))).map
      (fun t => (t.getPixel 10 20, t.getPixel 11 20, t.getPixel 17 20, t.reg 15)) =
      some (true, false, true, 0) := by decide

/-- G-6: off the grid under FAULT, CLIP and WRAP. -/
theorem test_drw_offscreen :
    (after 0xD011 (fun s => poke 0x300 [0xC0] ((s.setI 0x300).setReg 0 63))).bind faultOf =
      some ⟨.undefinedAccess (.display 64 0), some 0xD011, 0x202, 0x200⟩ ∧
    (after 0xD011 (fun s => withParams clipParams (poke 0x300 [0xC0] ((s.setI 0x300).setReg 0 63)))).map
      (fun t => (t.getPixel 63 0, t.getPixel 0 0)) = some (true, false) ∧
    (after 0xD011 (fun s => withParams wrapParams (poke 0x300 [0xC0] ((s.setI 0x300).setReg 0 63)))).map
      (fun t => (t.getPixel 63 0, t.getPixel 0 0)) = some (true, true) := by decide

/-- C-7. -/
theorem test_ret :
    (after 0x00EE (fun s => { s with stack := [0x204] })).map (fun t => (t.pc, t.sp)) = some (0x204, 0) := by decide

/-- C-8. -/
theorem test_ret_underflow :
    (after 0x00EE id).bind faultOf = some ⟨.stackUnderflow 0, some 0x00EE, 0x202, 0x200⟩ := by decide

/-- C-1. -/
theorem test_jp : (after 0x1ABC id).map (fun t => t.pc) = some 0xABC := by decide

/-- C-2. -/
theorem test_jp_low :
    (after 0x11FF id).bind faultOf = some ⟨.invalidJumpTarget 0x1FF, some 0x11FF, 0x202, 0x200⟩ := by decide

/-- C-4, at 0x200. -/
theorem test_call : (after 0x2210 id).map (fun t => (t.pc, t.stack)) = some (0x210, [0x202]) := by decide

/-- C-5 and C-6: the target is checked before the stack. -/
theorem test_call_faults :
    (after 0x2100 (stacked 12)).bind faultOf = some ⟨.invalidJumpTarget 0x100, some 0x2100, 0x202, 0x200⟩ ∧
    (after 0x2300 (stacked 12)).bind faultOf = some ⟨.stackOverflow 12, some 0x2300, 0x202, 0x200⟩ := by decide

/-- C-9. -/
theorem test_immediate_skips :
    (after 0x352A (fun s => s.setReg 5 0x2A)).map (fun t => t.pc) = some 0x204 ∧
    (after 0x352B (fun s => s.setReg 5 0x2A)).map (fun t => t.pc) = some 0x202 ∧
    (after 0x452A (fun s => s.setReg 5 0x2A)).map (fun t => t.pc) = some 0x202 ∧
    (after 0x452B (fun s => s.setReg 5 0x2A)).map (fun t => t.pc) = some 0x204 := by decide

/-- C-10 and C-11. -/
theorem test_register_skips :
    (after 0x5120 (fun s => (s.setReg 1 7).setReg 2 7)).map (fun t => t.pc) = some 0x204 ∧
    (after 0x9120 (fun s => (s.setReg 1 7).setReg 2 7)).map (fun t => t.pc) = some 0x202 ∧
    (after 0x5120 (fun s => (s.setReg 1 7).setReg 2 8)).map (fun t => t.pc) = some 0x202 ∧
    (after 0x9120 (fun s => (s.setReg 1 7).setReg 2 8)).map (fun t => t.pc) = some 0x204 := by decide

/-- L1.5. -/
theorem test_jpV0 : (after 0xB300 (fun s => s.setReg 0 0x10)).map (fun t => t.pc) = some 0x310 := by decide

/-- A-2. -/
theorem test_addImm :
    (after 0x7203 (fun s => (s.setReg 2 0xFE).setReg 15 0x07)).map (fun t => (t.reg 2, t.reg 15)) =
      some (0x01, 0x07) := by decide

/-- A-4. -/
theorem test_ldReg : (after 0x8010 (fun s => s.setReg 1 0x33)).map (fun t => t.reg 0) = some 0x33 := by decide

/-- A-5, with the operands of the examples of R77 to R79. -/
theorem test_logic :
    (after 0x8011 (fun s => ((s.setReg 0 0xF0).setReg 1 0x0C).setReg 15 9)).map (fun t => (t.reg 0, t.reg 15)) =
      some (0xFC, 9) ∧
    (after 0x8012 (fun s => ((s.setReg 0 0xF0).setReg 1 0x3C).setReg 15 9)).map (fun t => (t.reg 0, t.reg 15)) =
      some (0x30, 9) ∧
    (after 0x8013 (fun s => ((s.setReg 0 0xF0).setReg 1 0x3C).setReg 15 9)).map (fun t => (t.reg 0, t.reg 15)) =
      some (0xCC, 9) := by decide

/-- A-7, A-9 and A-10. -/
theorem test_addReg :
    (after 0x8014 (fun s => (s.setReg 0 0xFF).setReg 1 0xFF)).map (fun t => (t.reg 0, t.reg 15)) =
      some (0xFE, 1) ∧
    (after 0x8F14 (fun s => (s.setReg 15 0xF0).setReg 1 0x20)).map (fun t => t.reg 15) = some 1 ∧
    (after 0x80F4 (fun s => (s.setReg 15 0x01).setReg 0 0x10)).map (fun t => (t.reg 0, t.reg 15)) =
      some (0x11, 0) := by decide

/-- L1.10. -/
theorem test_subtracts :
    (after 0x8015 (fun s => (s.setReg 0 5).setReg 1 3)).map (fun t => (t.reg 0, t.reg 15)) = some (0x02, 1) ∧
    (after 0x8017 (fun s => (s.setReg 0 5).setReg 1 3)).map (fun t => (t.reg 0, t.reg 15)) = some (0xFE, 0) ∧
    (after 0x8015 (fun s => (s.setReg 0 3).setReg 1 5)).map (fun t => (t.reg 0, t.reg 15)) = some (0xFE, 0) ∧
    (after 0x8017 (fun s => (s.setReg 0 3).setReg 1 5)).map (fun t => (t.reg 0, t.reg 15)) = some (0x02, 1) ∧
    (after 0x8015 (fun s => withParams borrowParams ((s.setReg 0 3).setReg 1 5))).map
      (fun t => (t.reg 0, t.reg 15)) = some (0xFE, 1) := by decide

/-- L1.9 and A-16. -/
theorem test_shifts :
    (after 0x8016 (fun s => s.setReg 1 0x81)).map (fun t => (t.reg 0, t.reg 15)) = some (0x40, 1) ∧
    (after 0x8F16 (fun s => s.setReg 1 0x81)).map (fun t => t.reg 15) = some 1 ∧
    (after 0x801E (fun s => s.setReg 1 0x81)).map (fun t => (t.reg 0, t.reg 15)) = some (0x02, 1) ∧
    (after 0x8306 (fun s => withParams shiftXParams (s.setReg 0 0x05))).map (fun t => (t.reg 3, t.reg 15)) =
      some (0x00, 0) := by decide

/-- A-21: a draw of 0xA7. -/
theorem test_rnd : (rndWith 0xA7 3 0x0F State.reset).reg 3 = 0x07 := by decide

/-- M-1, M-4 and M-7. -/
theorem test_address_register :
    (after 0xA123 id).map (fun t => t.I) = some 0x0123 ∧
    (after 0xF01E (fun s => (s.setI 0xFFFF).setReg 0 2)).map (fun t => t.I) = some 0x0001 ∧
    (after 0xF029 (fun s => s.setReg 0 0xFF)).map (fun t => t.I) = some 0x04FB := by decide

/-- L1.2. -/
theorem test_ldB :
    (after 0xF333 (fun s => (s.setReg 3 0xCD).setI 0x300)).map
      (fun t => (t.mem.readBytes 0x300 3, t.I)) = some ([2, 0, 5], 0x300) := by decide

/-- M-10: no byte is written. -/
theorem test_ldB_out_of_range :
    (after 0xF033 (fun s => (s.setReg 0 9).setI 0xFFE)).map (fun t => (faultOf t, t.mem.readBytes 0xFFE 2)) =
      some (some ⟨.undefinedAccess (.memory 0x1000), some 0xF033, 0x202, 0x200⟩, [0, 0]) := by decide

/-- M-11. -/
theorem test_ldMemVx :
    (after 0xF255 (fun s => ((((s.setI 0x300).setReg 0 1).setReg 1 2).setReg 2 3).setReg 3 9)).map
      (fun t => (t.mem.readBytes 0x300 4, t.I)) = some ([1, 2, 3, 0], 0x303) := by decide

/-- M-14: sixteen registers from 0xFF1 on do not fit. -/
theorem test_ldMemVx_out_of_range :
    (after 0xFF55 (fun s => s.setI 0xFF1)).bind faultOf =
      some ⟨.undefinedAccess (.memory 0x1000), some 0xFF55, 0x202, 0x200⟩ := by decide

/-- M-16: glyph 0 of the font. -/
theorem test_ldVxMem :
    (after 0xF465 id).map (fun t => (t.regs.block 6, t.I)) = some ([0xF0, 0x90, 0x90, 0x90, 0xF0, 0], 0x005) := by
  decide

/-- K-2. -/
theorem test_key_skips :
    (after 0xE09E (fun s => s.setReg 0 7)).map (fun t => t.pc) = some 0x202 ∧
    (after 0xE0A1 (fun s => s.setReg 0 7)).map (fun t => t.pc) = some 0x204 ∧
    (after 0xE09E (fun s => (s.setReg 0 7).setKeys (s.keys.set 7 true))).map (fun t => t.pc) = some 0x204 := by decide

/-- K-3. -/
theorem test_key_out_of_range :
    (after 0xE09E (fun s => s.setReg 0 0x10)).bind faultOf =
      some ⟨.undefinedAccess (.key 16), some 0xE09E, 0x202, 0x200⟩ := by decide

/-- K-4 and K-5. -/
theorem test_timers :
    (after 0xF307 (fun s => s.setDT 0x3C)).map (fun t => t.reg 3) = some 0x3C ∧
    (after 0xF015 (fun s => s.setReg 0 7)).map (fun t => (t.DT, t.ST)) = some (7, 0) ∧
    (after 0xF018 (fun s => s.setReg 0 7)).map (fun t => (t.DT, t.ST)) = some (0, 7) := by decide

/-- K-7 and K-8. -/
theorem test_wait_and_delivery :
    (after 0xF50A id).map (fun t => (t.wait, t.pc, t.status)) = some (.awaiting 5, 0x202, .awaitingKey) ∧
    ((after 0xF50A id).bind (fun t => next? (hostAct (.deliverKey 0xC) t))).map (fun u => (u.reg 5, u.wait)) =
      some (0x0C, .none) := by decide

/-- K-6. -/
theorem test_tick : (tick (tick (tick (State.reset.setDT 2)))).DT = 0 ∧ (tick (State.reset.setDT 2)).DT = 1 ∧
    (tick State.reset).ST = 0 := by decide

/-- R-3: an image of one byte. -/
theorem test_reset_image : (hostReset [0x12] State.reset).mem.readBytes 0x1FF 4 = [0x00, 0x12, 0x00, 0x00] := by decide

/-! ### The hypotheses of the statements are met -/

def haltedState : State := State.reset.setRun (.halted ⟨.invalidInstruction, some 0x0001, 0x202, 0x200⟩)

theorem witness_StepRunsTheDecodedInstruction :
    Ready (placed 0x6005) ∧
      decode (placed 0x6005).params.strictDecode
        [(placed 0x6005).mem.read (placed 0x6005).pc.toNat, (placed 0x6005).mem.read ((placed 0x6005).pc.toNat + 1)] =
        .ok (.ldImm 0 5, []) := ⟨⟨rfl, rfl, by decide⟩, rfl⟩

/-- The last word that can be fetched. -/
theorem witness_ready_at_the_end : Ready (State.reset.setPc 0xFFE) := ⟨rfl, rfl, by decide⟩

theorem witness_DecodeOfEncodeIsTheInstruction : (Instr.cls 0x0E).wellFormed true = true := rfl

theorem witness_EncodeOfDecodeIsTheWord : decodeWord true 0xF018 = some (.ldStVx 0 1) := by decide

theorem witness_StrictDecodingIsASubset : decodeWord true 0x00EE = some (.ret 0x0E) := by decide

theorem witness_HaltedStepChangesNothing : ∃ f, haltedState.run = .halted f := ⟨_, rfl⟩

theorem witness_AwaitingMachineWaitsForDelivery :
    (State.reset.setWait (.awaiting 3)).run = .running ∧ (State.reset.setWait (.awaiting 3)).wait = .awaiting 3 ∧
    (∀ k, HostAction.stepCycles 4 ≠ .deliverKey k) ∧ (∀ image, HostAction.stepCycles 4 ≠ .reset image) ∧
    ∃ t, hostAct (.stepCycles 4) (State.reset.setWait (.awaiting 3)) = .next t := ⟨rfl, rfl, nofun, nofun, _, rfl⟩

theorem witness_FetchOutOfRangeFaults :
    (State.reset.setPc 0xFFF).run = .running ∧ (State.reset.setPc 0xFFF).wait = .none ∧
    4096 ≤ (State.reset.setPc 0xFFF).pc.toNat + 1 ∧ 0x1000 ≤ (State.reset.setPc 0x1000).pc.toNat := by decide

theorem witness_InvalidWordHalts :
    Ready (placed 0x0001) ∧
    (0x0001 : Word).toNat = ((placed 0x0001).mem.read (placed 0x0001).pc.toNat).toNat * 256 +
      ((placed 0x0001).mem.read ((placed 0x0001).pc.toNat + 1)).toNat ∧
    decodeWord (placed 0x0001).params.strictDecode 0x0001 = none := ⟨⟨rfl, rfl, by decide⟩, by decide, by decide⟩

theorem witness_FaultsArePrecise :
    ∃ t f, State.reset.run = .running ∧ exec (.ret 0x0E) State.reset = .next t ∧ t.run = .halted f :=
  ⟨_, _, rfl, rfl, rfl⟩

/-- The fault with which an instruction halts a running machine. -/
def faultKind (i : Instr) (s : State) : Option Fault := ((next? (exec i s)).bind faultOf).map (fun f => f.fault)

/-- Every clause of the statement is met, at a boundary value. -/
theorem witness_FaultKindsComeFromListedInstructions :
    faultKind (.jp 0x1FF) State.reset = some (.invalidJumpTarget 0x1FF) ∧
    faultKind (.call 0x200) (stacked 12 State.reset) = some (.stackOverflow 12) ∧
    faultKind (.ret 0) State.reset = some (.stackUnderflow 0) ∧
    faultKind (.ldBVx 0 3) (State.reset.setI 0xFFE) = some (.undefinedAccess (.memory 0x1000)) ∧
    faultKind (.drw 0 0 1) (State.reset.setReg 0 61) = some (.undefinedAccess (.display 61 61)) ∧
    faultKind (.skp 0 9) (State.reset.setReg 0 16) = some (.undefinedAccess (.key 16)) := by decide

theorem witness_PlacedWordRunsNext :
    State.reset.mem.wf = true ∧ 0x6005 < 65536 ∧ State.reset.pc.toNat + 1 < 4096 ∧
    4096 ≤ (State.reset.setPc 0xFFF).pc.toNat + 1 ∧ (State.reset.setPc 0xFFF).fetchSlot = 0x200 ∧
    decodeWord State.reset.params.strictDecode (BitVec.ofNat 16 0x6005) = some (.ldImm 0 5) := by decide

/-- A glyph at the corner, and no row at the very end of memory. -/
theorem witness_DrwInvertsTheSpritePixels :
    State.reset.I.toNat + (5 : Fin 16).val ≤ 4096 ∧ (State.reset.setI 0xFF1).I.toNat + (15 : Fin 16).val ≤ 4096 ∧
    State.reset.params.drawOffscreen = .fault ∧
    (∀ r b, SpriteBit State.reset 5 r b → ¬OffGrid State.reset 0 1 r b) ∧ SpriteBit State.reset 5 0 0 ∧
    DrawnPixel State.reset 0 1 5 (0, 0) ∧ ¬DrawnPixel State.reset 0 1 5 (63, 31) := by
  have h0 : (State.reset.reg 0).toNat = 0 := by decide
  have h1 : (State.reset.reg 1).toNat = 0 := by decide
  have hs : SpriteBit State.reset 5 0 0 := ⟨by decide, by decide, by decide⟩
  refine ⟨by decide, by decide, rfl, ?_, hs, ⟨0, 0, hs, by decide, by decide⟩, ?_⟩
  · rintro r b ⟨hr, hb, -⟩ ho
    have hr' : r < 5 := hr
    simp only [OffGrid, h0, h1] at ho
    omega
  · rintro ⟨r, b, ⟨-, hb, -⟩, hx, -⟩
    have hx' : (63 : Nat) = (State.reset.reg 0).toNat + b := hx
    omega

def offGridState : State := (poke 0x300 [0xC0] State.reset).setI 0x300 |>.setReg 0 63

/-- Both clauses: the first row out of memory, and G-6. -/
theorem witness_DrwFaultsOutOfRange :
    4096 < (State.reset.setI 0xFFE).I.toNat + (3 : Fin 16).val ∧
    offGridState.I.toNat + (1 : Fin 16).val ≤ 4096 ∧ offGridState.params.drawOffscreen = .fault ∧
    SpriteBit offGridState 1 0 1 ∧ OffGrid offGridState 0 1 0 1 ∧
    (∀ r' b', SpriteBit offGridState 1 r' b' → OffGrid offGridState 0 1 r' b' → 0 < r' ∨ (0 = r' ∧ 1 ≤ b')) := by
  have h0 : (offGridState.reg 0).toNat = 63 := by decide
  have h1 : (offGridState.reg 1).toNat = 0 := by decide
  refine ⟨by decide, by decide, rfl, ⟨by decide, by decide, by decide⟩, .inl (by rw [h0]), ?_⟩
  rintro r' b' ⟨hr, -, -⟩ ho
  have hr' : r' < 1 := hr
  simp only [OffGrid, h0, h1] at ho
  omega

theorem witness_DrawingTwiceRestoresTheDisplay :
    ∃ t u, exec (.drw 0 1 5) State.reset = .next t ∧ exec (.drw 0 1 5) t = .next u ∧
      t.reg 0 = State.reset.reg 0 ∧ t.reg 1 = State.reset.reg 1 ∧ State.reset.run = .running ∧ u.run = .running :=
  ⟨_, _, rfl, rfl, by decide, by decide, rfl, rfl⟩

theorem witness_RetPopsTheNewestAddress :
    (stacked 1 State.reset).stack = 0x202 :: [] ∧ State.reset.stack = [] := ⟨rfl, rfl⟩

theorem witness_JpSetsPc : 0x200 ≤ (0x200 : Addr).toNat ∧ 0x200 ≤ (0xFFF : Addr).toNat := by decide

theorem witness_CallPushesAndJumps : (stacked 11 State.reset).sp < 12 ∧ (stacked 12 State.reset).sp = 12 := by decide

theorem witness_LowJumpTargetHalts : (0x1FF : Addr).toNat < 0x200 := by decide

theorem witness_ReturnUndoesCall : 0x200 ≤ (0x200 : Addr).toNat ∧ (stacked 11 State.reset).sp < 12 := by decide

theorem witness_SubtractsSetDifferenceAndBorrow :
    State.reset.params.borrowPolarity = .noBorrowIsOne ∧
    (withParams borrowParams State.reset).params.borrowPolarity = .borrowIsOne := ⟨rfl, rfl⟩

theorem witness_ShiftsMoveTheSourceByOne :
    ∃ src, src = (if State.reset.params.shiftSource = .y then State.reset.reg 1 else State.reset.reg 0) := ⟨_, rfl⟩

theorem witness_BcdStoresThreeDigits :
    (State.reset.setI 0xFFD).I.toNat + 2 < 4096 ∧ 4096 ≤ (State.reset.setI 0xFFE).I.toNat + 2 ∧
    (State.reset.setI 0xFFD).mem.wf = true := by decide

theorem witness_BlockStoreWritesRegisters :
    (State.reset.setI 0xFF0).I.toNat + (15 : RegIdx).val < 4096 ∧
    4096 ≤ (State.reset.setI 0xFF1).I.toNat + (15 : RegIdx).val ∧ (State.reset.setI 0xFF0).mem.wf = true := by decide

theorem witness_BlockLoadReadsRegisters :
    (State.reset.setI 0xFFF).I.toNat + (0 : RegIdx).val < 4096 ∧
    4096 ≤ (State.reset.setI 0x1000).I.toNat + (0 : RegIdx).val := by decide

theorem witness_BlockStoreThenLoadIsIdentity :
    (State.reset.setI 0xFF0).mem.wf = true ∧ (State.reset.setI 0xFF0).I.toNat + (15 : RegIdx).val < 4096 := by decide

theorem witness_FetchSeesTheStore :
    (∃ t, (State.reset.setI 0xFF0).mem.wf = true ∧ (State.reset.setI 0xFF0).I.toNat + (15 : RegIdx).val < 4096 ∧
      exec (.ldMemVx 15) (State.reset.setI 0xFF0) = .next t ∧ (15 : RegIdx) ≤ 15) ∧
    (∃ t, (State.reset.setI 0xFFD).mem.wf = true ∧ (State.reset.setI 0xFFD).I.toNat + 2 < 4096 ∧
      exec (.ldBVx 0 3) (State.reset.setI 0xFFD) = .next t) ∧
    (0xFFE : Word).toNat + 1 < 4096 ∧ (0xFFE : Word).toNat + 1 = (State.reset.setI 0xFFD).I.toNat + 2 :=
  ⟨⟨_, rfl, by decide, rfl, by decide⟩, ⟨_, rfl, by decide, rfl⟩, by decide, by decide⟩

theorem witness_KeySkipsReadTheNamedKey :
    ((State.reset.setReg 0 15).reg 0).toNat = (15 : Fin 16).val ∧ 15 < ((State.reset.setReg 0 16).reg 0).toNat := by
  decide

theorem witness_WaitForKeySuspendsUntilDelivery : State.reset.run = .running := rfl

theorem witness_DeliveryCompletesTheWait :
    (State.reset.setWait (.awaiting 15)).run = .running ∧ (State.reset.setWait (.awaiting 15)).wait = .awaiting 15 ∧
    State.reset.wait = .none ∧ haltedState.run ≠ .running := by decide

theorem witness_ResetLeavesTheResetState :
    (79 : Nat) < 80 ∧ (3582 : Nat) < (List.replicate 4000 (0xAB : Byte)).length ∧ 0x200 + 3583 < 4096 ∧
    State.reset.params.strictDecode = false :=
  ⟨by decide, by rw [List.length_replicate]; decide, by decide, rfl⟩

theorem witness_ResetForgetsTheState :
    haltedState.params = State.reset.params ∧ haltedState.draws = State.reset.draws ∧
    ∃ t, hostAct (.reset []) haltedState = .next t := ⟨rfl, rfl, _, rfl⟩

/-- Each clause: an instruction of the list that changes what the clause is about. -/
theorem witness_WritersAreTheListedInstructions :
    (next? (exec (.ldBVx 0 3) ((State.reset.setReg 0 255).setI 0x300))).map (fun t => t.mem.length) = some 3 ∧
    (next? (exec (.ldI 0x300) State.reset)).map (fun t => t.I) = some 0x300 ∧
    (next? (exec (.call 0x300) State.reset)).map (fun t => t.sp) = some 1 ∧
    (next? (exec (.ldDtVx 0) (State.reset.setReg 0 7))).map (fun t => t.DT) = some 7 ∧
    (next? (exec (.ldStVx 0 1) (State.reset.setReg 0 7))).map (fun t => t.ST) = some 7 ∧
    (next? (exec (.drw 0 1 5) State.reset)).map (fun t => t.getPixel 0 0) = some true ∧
    (next? (exec (.ldVxK 7 0) State.reset)).map (fun t => t.wait) = some (.awaiting 7) := by decide

theorem witness_PcWritersAreTheListedInstructions :
    ∃ t, exec (.jp 0x300) State.reset = .next t ∧ t.pc ≠ State.reset.pc := ⟨_, rfl, by decide⟩

theorem witness_FlagWritersAreTheListedInstructions :
    ∃ t, exec (.shr 0 1) (State.reset.setReg 1 1) = .next t ∧ t.reg 15 ≠ (State.reset.setReg 1 1).reg 15 :=
  ⟨_, rfl, by decide⟩

theorem witness_NoInstructionReadsTheSoundTimer : ∃ t, exec (.ldVxDt 0 0) State.reset = .next t := ⟨_, rfl⟩

theorem witness_OnlyKeySkipsReadTheKeypad :
    (∀ x dc, Instr.cls 0x0E ≠ .skp x dc ∧ Instr.cls 0x0E ≠ .sknp x dc) ∧
    ∃ t, exec (.cls 0x0E) State.reset = .next t := ⟨fun _ _ => ⟨nofun, nofun⟩, _, rfl⟩

/-- C-3. -/
theorem witness_SelfLoopStepChangesNothing :
    Ready (placed 0x1200) ∧ SelfLoop (placed 0x1200) ∧ 0x200 ≤ (placed 0x1200).pc.toNat :=
  ⟨⟨rfl, rfl, by decide⟩, ⟨0x1200, 0x200, rfl, by decide, by decide⟩, by decide⟩

theorem witness_StepKeepsInv : Inv State.reset ∧ ∃ t, step State.reset = .next t :=
  ⟨⟨rfl, by decide, nofun, by decide⟩, _, rfl⟩

theorem witness_HostActionsKeepInv :
    Inv State.reset ∧ ∃ t, runActions [.step, .tick, .deliverKey 3, .stepCycles 2] State.reset = .next t :=
  ⟨⟨rfl, by decide, nofun, by decide⟩, _, rfl⟩

theorem witness_OnlyResetLeavesTheHaltedState :
    (∃ f, haltedState.run = .halted f) ∧ (∀ image, HostAction.reset image ∉ [HostAction.step, .tick]) ∧
    ∃ t, runActions [.step, .tick] haltedState = .next t := ⟨⟨_, rfl⟩, by simp, _, rfl⟩

end Sys2Proof.Tests
end

section
/-! SUPPORT. How one step goes: it rests, or fails to fetch, or runs the word at `pc` (40_dispatch.md R49 to R54). -/

namespace Sys2Proof.Machine

variable {s : State}

/-- A halted or waiting machine stays as it is (R50, R51). -/
theorem step_eq_self (h : s.run ≠ .running ∨ s.wait ≠ .none) : step s = .next s := by
  unfold step cycle
  cases hrun : s.run with
  | halted f => rfl
  | running =>
    cases hwait : s.wait with
    | awaiting x => rfl
    | none => simp [hrun, hwait] at h

/-- A fetch past the end of memory is a fault, taken before `pc` advances (R31). -/
theorem step_eq_fetchFault (hrun : s.run = .running) (hwait : s.wait = .none)
    (hpc : Config.memSize ≤ s.pc.toNat + 1) :
    step s = takeFault (.undefinedAccess (.memory (max s.pc.toNat Config.memSize))) none s.pc s := by
  simp only [step, cycle, hrun, hwait, fetch_eq_error hpc]

/-- A machine that is ready dispatches the two bytes at `pc` (R52, R53). -/
theorem step_eq_dispatchWord (h : Ready s) :
    step s = dispatchWord (wordOfBytes (s.mem.read s.pc.toNat) (s.mem.read (s.pc.toNat + 1))) s := by
  obtain ⟨hrun, hwait, hpc⟩ := h
  simp only [step, cycle, hrun, hwait, fetch_eq_ok hpc]

/-- A machine rests, or fails to fetch, or is ready. -/
theorem resting_or_fetchFault_or_ready (s : State) :
    (s.run ≠ .running ∨ s.wait ≠ .none) ∨
    (s.run = .running ∧ s.wait = .none ∧ Config.memSize ≤ s.pc.toNat + 1) ∨ Ready s := by
  by_cases hactive : s.run = .running ∧ s.wait = .none
  · obtain ⟨hrun, hwait⟩ := hactive
    obtain hpc | hpc := le_or_gt Config.memSize (s.pc.toNat + 1)
    · exact .inr (.inl ⟨hrun, hwait, hpc⟩)
    · exact .inr (.inr ⟨hrun, hwait, hpc⟩)
  · exact .inl (not_and_or.1 hactive)

end Sys2Proof.Machine
end

section
/-! SUPPORT. The invariant: the updates that keep it, and that no instruction breaks it (10_state.md sections 5, 6). -/

namespace Sys2Proof.Machine

variable {s : State}

/-! ### Updates of the state -/

theorem Inv.wf_mem (hs : Inv s) : s.mem.wf = true := hs.1

theorem isReturnAddress_iff {a : Word} : isReturnAddress a = true ↔ 2 ≤ a.toNat ∧ a.toNat ≤ 0x1000 := by
  simp [isReturnAddress]

theorem Inv.le_of_mem_stack (hs : Inv s) {a : Word} (ha : a ∈ s.stack) : a.toNat ≤ 0x1000 := by
  obtain ⟨-, -, hstack, -⟩ := hs
  exact (isReturnAddress_iff.1 (hstack a ha)).2

theorem Inv.setPc (hs : Inv s) {v : Nat} (hv : v ≤ 0x10FE) : Inv (s.setPc v) := by
  obtain ⟨hmem, hsp, hstack, -⟩ := hs
  refine ⟨hmem, hsp, hstack, ?_⟩
  rw [State.pc_setPc, BitVec.toNat_ofNat]
  omega

theorem Inv.setMem (hs : Inv s) {m : Memory} (hm : m.wf = true) : Inv (s.setMem m) := by
  obtain ⟨-, hsp, hstack, hpc⟩ := hs
  exact ⟨hm, hsp, hstack, hpc⟩

theorem Inv.pushed (hs : Inv s) {a : Word} (hsp : s.sp < Config.stackDepth) (ha : isReturnAddress a = true) :
    Inv (s.pushed a) := by
  obtain ⟨hmem, -, hstack, hpc⟩ := hs
  exact ⟨hmem, hsp, List.forall_mem_cons.2 ⟨ha, hstack⟩, hpc⟩

theorem Inv.popped (hs : Inv s) : Inv s.popped := by
  obtain ⟨hmem, hsp, hstack, hpc⟩ := hs
  refine ⟨hmem, ?_, fun a ha => hstack a (List.mem_of_mem_tail ha), hpc⟩
  rw [State.sp_popped]
  omega

/-! ### Answers that meet the invariant -/

/-- If the answer is a next state, that state meets the invariant. -/
def AnswersInv : Result → Prop
  | .next t => Inv t
  | .fault _ => True
  | .refused _ => True

theorem AnswersInv.inv_of_eq {r : Result} {t : State} (hr : AnswersInv r) (h : r = .next t) : Inv t := by
  subst h
  exact hr

/-- The fault record is no part of the invariant (R106). -/
theorem answersInv_takeFault (hs : Inv s) (f : Fault) (w : Option Word) (a : Word) :
    AnswersInv (takeFault f w a s) := hs

theorem answersInv_raise (hs : Inv s) (i : Instr) (f : Fault) : AnswersInv (raise i f s) := hs

/-! ### Instructions, in a state whose `pc` has advanced from a fetched word -/

/-- What `exec` may rely on: the invariant, and that the advanced `pc` is an address a call may push (R10, R64). -/
def ExecInv (s : State) : Prop := Inv s ∧ isReturnAddress s.pc = true

/-- A word that could be fetched lies below 0x1000, so the advanced `pc` is at most 0x1000 (R52, R53). -/
theorem execInv_advance (hs : Inv s) (hpc : s.pc.toNat + 1 < Config.memSize) : ExecInv s.advance := by
  have hlt : s.pc.toNat + 1 < 4096 := hpc
  refine ⟨hs.setPc (by omega), ?_⟩
  rw [isReturnAddress_iff, State.pc_advance, BitVec.toNat_ofNat]
  omega

theorem ExecInv.skipIf (h : ExecInv s) (c : Bool) : Inv (skipIf c s) := by
  obtain ⟨hs, hpc⟩ := h
  rw [isReturnAddress_iff] at hpc
  rw [skipIf_eq]
  apply hs.setPc
  split <;> omega

theorem answersInv_execRet (hs : Inv s) (dc : BitVec 8) : AnswersInv (execRet dc s) := by
  unfold execRet
  split
  · exact answersInv_raise hs _ _
  · next a rest hstack =>
    have ha : a.toNat ≤ 0x1000 := hs.le_of_mem_stack (by simp [hstack])
    exact hs.popped.setPc (by omega)

theorem answersInv_execJp (hs : Inv s) (nnn : Addr) : AnswersInv (execJp nnn s) := by
  have hnnn := nnn.isLt
  unfold execJp addrOperand
  split
  · exact answersInv_raise hs _ _
  · exact hs.setPc (by omega)

/-- The depth check keeps the stack at 12 entries, and the entry pushed is the advanced `pc` (R59, R64). -/
theorem answersInv_execCall (h : ExecInv s) (nnn : Addr) : AnswersInv (execCall nnn s) := by
  obtain ⟨hs, hret⟩ := h
  have hnnn := nnn.isLt
  unfold execCall addrOperand
  split
  · exact answersInv_raise hs _ _
  · split
    · exact answersInv_raise hs _ _
    · next hdepth => exact (hs.pushed (by omega) hret).setPc (by omega)

/-- The largest target, 0xFFF + 0xFF, is the bound of the invariant (R69). -/
theorem answersInv_execJpV0 (hs : Inv s) (nnn : Addr) : AnswersInv (execJpV0 nnn s) := by
  have hnnn := nnn.isLt
  have hreg := (s.reg 0).isLt
  exact hs.setPc (by unfold offsetTarget; omega)

theorem answersInv_execDrw (hs : Inv s) (x y : RegIdx) (n : Fin 16) : AnswersInv (execDrw x y n s) := by
  unfold execDrw
  split
  · exact answersInv_raise hs _ _
  · split
    · exact answersInv_raise hs _ _
    · exact hs

theorem answersInv_execSkp (h : ExecInv s) (x : RegIdx) (dc : Nibble) : AnswersInv (execSkp x dc s) := by
  unfold execSkp
  split
  · exact answersInv_raise h.1 _ _
  · exact h.skipIf _

theorem answersInv_execSknp (h : ExecInv s) (x : RegIdx) (dc : Nibble) : AnswersInv (execSknp x dc s) := by
  unfold execSknp
  split
  · exact answersInv_raise h.1 _ _
  · exact h.skipIf _

/-- A block that passed the range check is stored within memory (R30). -/
theorem Inv.setMem_writeBytes (hs : Inv s) {base : Nat} {vs : List Byte} (hlen : vs.length ≠ 0)
    (h : firstOutside base vs.length = none) : Inv (s.setMem (s.mem.writeBytes base vs)) := by
  have hfit := (firstOutside_eq_none.1 h).resolve_left hlen
  exact hs.setMem (Memory.wf_writeBytes vs base hs.wf_mem hfit)

theorem answersInv_execLdBVx (hs : Inv s) (x : RegIdx) (dc : Nibble) : AnswersInv (execLdBVx x dc s) := by
  unfold execLdBVx
  split
  · exact answersInv_raise hs _ _
  · next h => exact hs.setMem_writeBytes (by simp [bcdDigits]) h

theorem answersInv_execLdMemVx (hs : Inv s) (x : RegIdx) : AnswersInv (execLdMemVx x s) := by
  have hlen : (s.regs.block (x.val + 1)).length = x.val + 1 := RegFile.length_block _ (by omega)
  unfold execLdMemVx
  split
  · exact answersInv_raise hs _ _
  · next h =>
    have hstored : Inv (s.setMem (s.mem.writeBytes s.I.toNat (s.regs.block (x.val + 1)))) :=
      hs.setMem_writeBytes (by omega) (by rw [hlen]; exact h)
    exact hstored

theorem answersInv_execLdVxMem (hs : Inv s) (x : RegIdx) : AnswersInv (execLdVxMem x s) := by
  unfold execLdVxMem
  split
  · exact answersInv_raise hs _ _
  · exact hs

/-- No instruction breaks the invariant. An arm that only writes registers, `I`, the timers, the display, the wait
state or the draw counter leaves everything the invariant speaks of as it is. -/
theorem answersInv_exec (h : ExecInv s) (i : Instr) : AnswersInv (exec i s) := by
  have hs : Inv s := h.1
  cases i with
  | ret dc => exact answersInv_execRet hs dc
  | jp nnn => exact answersInv_execJp hs nnn
  | call nnn => exact answersInv_execCall h nnn
  | jpV0 nnn => exact answersInv_execJpV0 hs nnn
  | seImm x nn => exact h.skipIf _
  | sneImm x nn => exact h.skipIf _
  | seReg x y dc => exact h.skipIf _
  | sneReg x y dc => exact h.skipIf _
  | skp x dc => exact answersInv_execSkp h x dc
  | sknp x dc => exact answersInv_execSknp h x dc
  | drw x y n => exact answersInv_execDrw hs x y n
  | ldBVx x dc => exact answersInv_execLdBVx hs x dc
  | ldMemVx x => exact answersInv_execLdMemVx hs x
  | ldVxMem x => exact answersInv_execLdVxMem hs x
  | _ => exact hs

theorem answersInv_dispatchWord (h : ExecInv s.advance) (w : Word) : AnswersInv (dispatchWord w s) := by
  unfold dispatchWord
  split
  · exact answersInv_takeFault h.1 _ _ _
  · exact answersInv_exec h _

theorem answersInv_step (hs : Inv s) : AnswersInv (step s) := by
  obtain hrest | ⟨hrun, hwait, hpc⟩ | hready := resting_or_fetchFault_or_ready s
  · rw [step_eq_self hrest]
    exact hs
  · rw [step_eq_fetchFault hrun hwait hpc]
    exact answersInv_takeFault hs _ _ _
  · rw [step_eq_dispatchWord hready]
    obtain ⟨-, -, hpc⟩ := hready
    exact answersInv_dispatchWord (execInv_advance hs hpc) _

/-- Settles O57: a ready machine advances `pc` to a return address, from which no instruction breaks the invariant. -/
theorem stepKeepsInv : Obligations.StepKeepsInv :=
  fun _ _ hs h => (answersInv_step hs).inv_of_eq h

/-! ### Reset -/

theorem wf_loadFont (font : Vector Byte 80) {m : Memory} (hm : m.wf = true) : (loadFont font m).wf = true :=
  Memory.wf_writeBytes _ _ hm (by simp [Config.memSize])

/-- At most 3583 bytes are loaded from 0x200 on, so the image stays in memory (R124). -/
theorem wf_loadImage (image : List Byte) {m : Memory} (hm : m.wf = true) : (loadImage image m).wf = true := by
  have hlen : (image.take Config.maxImage).length ≤ 3583 := List.length_take_le _ _
  exact Memory.wf_writeBytes _ _ hm (by simp only [Config.programBase, Config.memSize]; omega)

theorem inv_reset : Inv State.reset := ⟨rfl, by decide, nofun, by decide⟩

theorem inv_resetState (p : Params) (image : List Byte) : Inv (resetState p image) := by
  obtain ⟨hmem, hsp, hstack, hpc⟩ := inv_reset
  exact ⟨wf_loadImage image (wf_loadFont p.font hmem), hsp, hstack, hpc⟩

/-- Settles O56: the font and the image are loaded within memory, and the rest is the reset state. -/
theorem resetMeetsTheInvariant : Obligations.ResetMeetsTheInvariant :=
  ⟨inv_reset, inv_resetState⟩

end Sys2Proof.Machine
end

section
/-! SUPPORT. No instruction reads the sound timer, and the key skips alone read the keypad (10_state.md sections 7, 9). -/

namespace Sys2Proof.Machine

/-- The state with another sound timer and another keypad. -/
def State.withSoundAndKeys (v : Byte) (ks : Keypad) (s : State) : State := { s with ST := v, keys := ks }

/-- The answer with its next state changed by `f`. -/
def onNext (f : State → State) : Result → Result
  | .next t => .next (f t)
  | .fault r => .fault r
  | .refused r => .refused r

variable (s : State) (v : Byte) (ks : Keypad)

@[simp] theorem State.I_withSoundAndKeys : (s.withSoundAndKeys v ks).I = s.I := rfl
@[simp] theorem State.stack_withSoundAndKeys : (s.withSoundAndKeys v ks).stack = s.stack := rfl
@[simp] theorem State.sp_withSoundAndKeys : (s.withSoundAndKeys v ks).sp = s.sp := rfl

theorem setKeys_eq_withSoundAndKeys : { s with keys := ks } = s.withSoundAndKeys s.ST ks := rfl

theorem setST_eq_withSoundAndKeys : { s with ST := v } = s.withSoundAndKeys v s.keys := rfl

/-- Neither is read by a skip, whose condition is given. -/
theorem skipIf_withSoundAndKeys (c : Bool) :
    skipIf c (s.withSoundAndKeys v ks) = (skipIf c s).withSoundAndKeys v ks := by
  cases c <;> rfl

theorem execRet_withSoundAndKeys (dc : BitVec 8) :
    execRet dc (s.withSoundAndKeys v ks) = onNext (State.withSoundAndKeys v ks) (execRet dc s) := by
  simp only [execRet, State.stack_withSoundAndKeys]
  cases s.stack <;> rfl

theorem execJp_withSoundAndKeys (nnn : Addr) :
    execJp nnn (s.withSoundAndKeys v ks) = onNext (State.withSoundAndKeys v ks) (execJp nnn s) := by
  unfold execJp
  split <;> rfl

theorem execCall_withSoundAndKeys (nnn : Addr) :
    execCall nnn (s.withSoundAndKeys v ks) = onNext (State.withSoundAndKeys v ks) (execCall nnn s) := by
  unfold execCall
  rw [State.sp_withSoundAndKeys]
  split
  · rfl
  · split <;> rfl

theorem execDrw_withSoundAndKeys (x y : RegIdx) (n : Fin 16) :
    execDrw x y n (s.withSoundAndKeys v ks) = onNext (State.withSoundAndKeys v ks) (execDrw x y n s) := by
  have htargets : drawTargets (s.withSoundAndKeys v ks) x y n = drawTargets s x y n := rfl
  simp only [execDrw, State.I_withSoundAndKeys, htargets]
  cases firstOutside s.I.toNat n.val with
  | some a => rfl
  | none => cases drawTargets s x y n <;> rfl

theorem execLdBVx_withSoundAndKeys (x : RegIdx) (dc : Nibble) :
    execLdBVx x dc (s.withSoundAndKeys v ks) = onNext (State.withSoundAndKeys v ks) (execLdBVx x dc s) := by
  simp only [execLdBVx, State.I_withSoundAndKeys]
  cases firstOutside s.I.toNat 3 <;> rfl

theorem execLdMemVx_withSoundAndKeys (x : RegIdx) :
    execLdMemVx x (s.withSoundAndKeys v ks) = onNext (State.withSoundAndKeys v ks) (execLdMemVx x s) := by
  simp only [execLdMemVx, State.I_withSoundAndKeys]
  cases firstOutside s.I.toNat (x.val + 1) <;> rfl

theorem execLdVxMem_withSoundAndKeys (x : RegIdx) :
    execLdVxMem x (s.withSoundAndKeys v ks) = onNext (State.withSoundAndKeys v ks) (execLdVxMem x s) := by
  simp only [execLdVxMem, State.I_withSoundAndKeys]
  cases firstOutside s.I.toNat (x.val + 1) <;> rfl

theorem keyOperand_withSoundAndKeys (x : RegIdx) : keyOperand (s.withSoundAndKeys v ks) x = keyOperand s x := rfl

/-- A key skip reads the key its register names, so the keypad must be the same (R93). -/
theorem execSkp_withSound (x : RegIdx) (dc : Nibble) :
    execSkp x dc (s.withSoundAndKeys v s.keys) = onNext (State.withSoundAndKeys v s.keys) (execSkp x dc s) := by
  unfold execSkp
  rw [keyOperand_withSoundAndKeys]
  cases keyOperand s x with
  | none => rfl
  | some k => exact congrArg Host.Outcome.next (skipIf_withSoundAndKeys s v s.keys (s.key k))

theorem execSknp_withSound (x : RegIdx) (dc : Nibble) :
    execSknp x dc (s.withSoundAndKeys v s.keys) = onNext (State.withSoundAndKeys v s.keys) (execSknp x dc s) := by
  unfold execSknp
  rw [keyOperand_withSoundAndKeys]
  cases keyOperand s x with
  | none => rfl
  | some k => exact congrArg Host.Outcome.next (skipIf_withSoundAndKeys s v s.keys (!s.key k))

/-- An instruction does the same whatever the sound timer is, and whatever the keypad is unless it is a key skip; and
it hands both on, unless it sets the sound timer. -/
theorem exec_withSoundAndKeys (i : Instr) (hsound : ∀ x dc, i ≠ .ldStVx x dc)
    (hkeys : ∀ x dc, i = .skp x dc ∨ i = .sknp x dc → ks = s.keys) :
    exec i (s.withSoundAndKeys v ks) = onNext (State.withSoundAndKeys v ks) (exec i s) := by
  have hskip (c : Bool) := congrArg (Host.Outcome.next : State → Result) (skipIf_withSoundAndKeys s v ks c)
  cases i with
  | ret dc => exact execRet_withSoundAndKeys s v ks dc
  | jp nnn => exact execJp_withSoundAndKeys s v ks nnn
  | call nnn => exact execCall_withSoundAndKeys s v ks nnn
  | seImm x nn => exact hskip _
  | sneImm x nn => exact hskip _
  | seReg x y dc => exact hskip _
  | sneReg x y dc => exact hskip _
  | drw x y n => exact execDrw_withSoundAndKeys s v ks x y n
  | ldBVx x dc => exact execLdBVx_withSoundAndKeys s v ks x dc
  | ldMemVx x => exact execLdMemVx_withSoundAndKeys s v ks x
  | ldVxMem x => exact execLdVxMem_withSoundAndKeys s v ks x
  | skp x dc =>
    rw [hkeys x dc (.inl rfl)]
    exact execSkp_withSound s v x dc
  | sknp x dc =>
    rw [hkeys x dc (.inr rfl)]
    exact execSknp_withSound s v x dc
  | ldStVx x dc => exact absurd rfl (hsound x dc)
  | _ => rfl

variable {s} {t : State} {i : Instr}

/-- Run with its own sound timer and keypad, the state is handed on as it was answered, so it has both still. -/
theorem exec_keeps_ST_and_keys (hsound : ∀ x dc, i ≠ .ldStVx x dc) (h : exec i s = .next t) :
    t.ST = s.ST ∧ t.keys = s.keys := by
  have hsame : exec i s = onNext (State.withSoundAndKeys s.ST s.keys) (exec i s) :=
    exec_withSoundAndKeys s s.ST s.keys i hsound fun _ _ _ => rfl
  rw [h] at hsame
  have ht : t = t.withSoundAndKeys s.ST s.keys := Host.Outcome.next.inj hsame
  exact ⟨(congrArg State.ST ht :), (congrArg State.keys ht :)⟩

/-- Settles O53: LD ST, Vx overwrites the sound timer with a register, and every other instruction hands it on. -/
theorem noInstructionReadsTheSoundTimer : Obligations.NoInstructionReadsTheSoundTimer := by
  intro i s t v h
  by_cases hst : ∃ x dc, i = .ldStVx x dc
  · obtain ⟨x, dc, rfl⟩ := hst
    cases h
    exact ⟨_, rfl, rfl⟩
  · push Not at hst
    obtain ⟨-, hkeys⟩ := exec_keeps_ST_and_keys hst h
    refine ⟨t.withSoundAndKeys v t.keys, ?_, rfl⟩
    rw [setST_eq_withSoundAndKeys, exec_withSoundAndKeys s v s.keys i hst fun _ _ _ => rfl, h, hkeys]
    rfl

/-- Settles O54: LD ST, Vx copies a register, and every other instruction but the key skips does the same whatever the
keypad is. -/
theorem onlyKeySkipsReadTheKeypad : Obligations.OnlyKeySkipsReadTheKeypad := by
  intro i s t ks hi h
  by_cases hst : ∃ x dc, i = .ldStVx x dc
  · obtain ⟨x, dc, rfl⟩ := hst
    cases h
    rfl
  · push Not at hst
    have hnoSkip : ∀ x dc, i = .skp x dc ∨ i = .sknp x dc → ks = s.keys :=
      fun x dc hskip => (not_or.2 (hi x dc) hskip).elim
    obtain ⟨hST, -⟩ := exec_keeps_ST_and_keys hst h
    rw [setKeys_eq_withSoundAndKeys, exec_withSoundAndKeys s s.ST ks i hst hnoSkip, h,
      setKeys_eq_withSoundAndKeys, hST]
    rfl

end Sys2Proof.Machine
end

section
/-! SUPPORT. A fetch reads what a block store wrote (20_memory.md R25, R37; D17). -/

namespace Sys2Proof.Machine

variable {s : State}

/-- The digits of LD B are stored when all three addresses lie in memory (R90). -/
theorem execLdBVx_eq_next (x : RegIdx) (dc : Nibble) (h : s.I.toNat + 2 < Config.memSize) :
    execLdBVx x dc s = .next (s.setMem (s.mem.writeBytes s.I.toNat (bcdDigits (s.reg x)))) := by
  have hin : firstOutside s.I.toNat 3 = none := firstOutside_eq_none.2 (.inr h)
  simp only [execLdBVx, hin]

/-- The registers of LD [I] are stored when all their addresses lie in memory (R91). -/
theorem execLdMemVx_eq_next (x : RegIdx) (h : s.I.toNat + x.val < Config.memSize) :
    execLdMemVx x s =
      .next ((s.setMem (s.mem.writeBytes s.I.toNat (s.regs.block (x.val + 1)))).setI (s.I.toNat + x.val + 1)) := by
  have hin : firstOutside s.I.toNat (x.val + 1) = none := firstOutside_eq_none.2 (.inr h)
  simp only [execLdMemVx, hin]

/-- A fetch that covers a byte of a stored block reads that byte. -/
theorem fetchReads_writeBytes {t : State} {m : Memory} {base : Nat} {vs : List Byte}
    (ht : t.mem = m.writeBytes base vs) (hm : m.wf = true) (hfit : base + vs.length ≤ Config.memSize)
    {k : Nat} (hk : k < vs.length) : FetchReads t (base + k) vs[k].toNat := by
  rw [← Memory.read_writeBytes_inside vs base hm hfit k hk, ← ht]
  exact fetchReads_read t _

theorem fetchReads_execLdMemVx {t : State} {x r : RegIdx} (hm : s.mem.wf = true)
    (hfit : s.I.toNat + x.val < Config.memSize) (h : execLdMemVx x s = .next t) (hr : r ≤ x) :
    FetchReads t (s.I.toNat + r.val) (s.reg r).toNat := by
  have hlen : (s.regs.block (x.val + 1)).length = x.val + 1 := RegFile.length_block _ x.isLt
  have hk : r.val < (s.regs.block (x.val + 1)).length := by
    rw [hlen]
    exact Nat.lt_succ_of_le hr
  have hbyte : (s.regs.block (x.val + 1))[r.val] = s.reg r := RegFile.getElem_block _ x.isLt hk
  rw [execLdMemVx_eq_next x hfit] at h
  cases h
  rw [← hbyte]
  exact fetchReads_writeBytes rfl hm (by rw [hlen]; exact hfit) hk

theorem fetchReads_execLdBVx {t : State} {x : RegIdx} {dc : Nibble} (hm : s.mem.wf = true)
    (hfit : s.I.toNat + 2 < Config.memSize) (h : execLdBVx x dc s = .next t) {k : Nat}
    (hk : k < (bcdDigits (s.reg x)).length) :
    FetchReads t (s.I.toNat + k) (bcdDigits (s.reg x))[k].toNat := by
  rw [execLdBVx_eq_next x dc hfit] at h
  cases h
  exact fetchReads_writeBytes rfl hm hfit hk

@[simp] theorem length_bcdDigits (v : Byte) : (bcdDigits v).length = 3 := rfl

/-- The bytes of LD B hold the digits themselves: none is lost to the width of a byte (R90). -/
theorem toNat_getElem_bcdDigits (v : Byte) :
    (bcdDigits v)[0].toNat = v.toNat / 100 ∧ (bcdDigits v)[1].toNat = v.toNat / 10 % 10 ∧
    (bcdDigits v)[2].toNat = v.toNat % 10 := by
  have hv := v.isLt
  simp only [bcdDigits, List.getElem_cons_zero, List.getElem_cons_succ, BitVec.toNat_ofNat]
  omega

/-- Settles O40: both stores put their bytes in place, and a fetch reads what a read of its two bytes gives. -/
theorem fetchSeesTheStore : Obligations.FetchSeesTheStore := by
  intro x s t hm
  refine ⟨fun hfit h r hr => fetchReads_execLdMemVx hm hfit h hr, fun dc hfit h => ?_⟩
  obtain ⟨hundreds, tens, ones⟩ := toNat_getElem_bcdDigits (s.reg x)
  rw [← hundreds, ← tens, ← ones]
  exact ⟨fetchReads_execLdBVx hm hfit h (k := 0) (by simp), fetchReads_execLdBVx hm hfit h (by simp),
    fetchReads_execLdBVx hm hfit h (by simp)⟩

end Sys2Proof.Machine
end

section
/-! SUPPORT. What an instruction can answer: a fault its handler raises, or a state in which it has completed (40_dispatch.md R55). -/

namespace Sys2Proof.Machine

variable (s : State)

@[simp] theorem run_skipIf (c : Bool) : (skipIf c s).run = s.run := by
  cases c <;> rfl

/-- The handler of `i` fails a check and raises a fault, or passes them all and completes, the run state kept. -/
def RaisesOrCompletes (i : Instr) (s : State) (r : Result) : Prop :=
  (∃ f, r = raise i f s) ∨ ∃ t, r = .next t ∧ t.run = s.run

theorem raisesOrCompletes_raise (i : Instr) (f : Fault) : RaisesOrCompletes i s (raise i f s) := .inl ⟨f, rfl⟩

theorem raisesOrCompletes_next (i : Instr) {t : State} (h : t.run = s.run) : RaisesOrCompletes i s (.next t) :=
  .inr ⟨t, rfl, h⟩

theorem raisesOrCompletes_execRet (dc : BitVec 8) : RaisesOrCompletes (.ret dc) s (execRet dc s) := by
  unfold execRet
  split
  · exact raisesOrCompletes_raise s _ _
  · exact raisesOrCompletes_next s _ rfl

theorem raisesOrCompletes_execJp (nnn : Addr) : RaisesOrCompletes (.jp nnn) s (execJp nnn s) := by
  unfold execJp
  split
  · exact raisesOrCompletes_raise s _ _
  · exact raisesOrCompletes_next s _ rfl

theorem raisesOrCompletes_execCall (nnn : Addr) : RaisesOrCompletes (.call nnn) s (execCall nnn s) := by
  unfold execCall
  split
  · exact raisesOrCompletes_raise s _ _
  · split
    · exact raisesOrCompletes_raise s _ _
    · exact raisesOrCompletes_next s _ rfl

theorem raisesOrCompletes_execDrw (x y : RegIdx) (n : Fin 16) :
    RaisesOrCompletes (.drw x y n) s (execDrw x y n s) := by
  unfold execDrw
  split
  · exact raisesOrCompletes_raise s _ _
  · split
    · exact raisesOrCompletes_raise s _ _
    · exact raisesOrCompletes_next s _ rfl

theorem raisesOrCompletes_execSkp (x : RegIdx) (dc : Nibble) : RaisesOrCompletes (.skp x dc) s (execSkp x dc s) := by
  unfold execSkp
  split
  · exact raisesOrCompletes_raise s _ _
  · exact raisesOrCompletes_next s _ (run_skipIf s _)

theorem raisesOrCompletes_execSknp (x : RegIdx) (dc : Nibble) :
    RaisesOrCompletes (.sknp x dc) s (execSknp x dc s) := by
  unfold execSknp
  split
  · exact raisesOrCompletes_raise s _ _
  · exact raisesOrCompletes_next s _ (run_skipIf s _)

theorem raisesOrCompletes_execLdBVx (x : RegIdx) (dc : Nibble) :
    RaisesOrCompletes (.ldBVx x dc) s (execLdBVx x dc s) := by
  unfold execLdBVx
  split
  · exact raisesOrCompletes_raise s _ _
  · exact raisesOrCompletes_next s _ rfl

theorem raisesOrCompletes_execLdMemVx (x : RegIdx) : RaisesOrCompletes (.ldMemVx x) s (execLdMemVx x s) := by
  unfold execLdMemVx
  split
  · exact raisesOrCompletes_raise s _ _
  · exact raisesOrCompletes_next s _ rfl

theorem raisesOrCompletes_execLdVxMem (x : RegIdx) : RaisesOrCompletes (.ldVxMem x) s (execLdVxMem x s) := by
  unfold execLdVxMem
  split
  · exact raisesOrCompletes_raise s _ _
  · exact raisesOrCompletes_next s _ rfl

/-- An instruction without a check always completes, and nothing but a fault writes the run state. -/
theorem exec_raisesOrCompletes (i : Instr) : RaisesOrCompletes i s (exec i s) := by
  have hskip (i : Instr) (c : Bool) : RaisesOrCompletes i s (.next (skipIf c s)) :=
    raisesOrCompletes_next s i (run_skipIf s c)
  cases i with
  | ret dc => exact raisesOrCompletes_execRet s dc
  | jp nnn => exact raisesOrCompletes_execJp s nnn
  | call nnn => exact raisesOrCompletes_execCall s nnn
  | seImm x nn => exact hskip _ _
  | sneImm x nn => exact hskip _ _
  | seReg x y dc => exact hskip _ _
  | sneReg x y dc => exact hskip _ _
  | drw x y n => exact raisesOrCompletes_execDrw s x y n
  | skp x dc => exact raisesOrCompletes_execSkp s x dc
  | sknp x dc => exact raisesOrCompletes_execSknp s x dc
  | ldBVx x dc => exact raisesOrCompletes_execLdBVx s x dc
  | ldMemVx x => exact raisesOrCompletes_execLdMemVx s x
  | ldVxMem x => exact raisesOrCompletes_execLdVxMem s x
  | _ => exact raisesOrCompletes_next s _ rfl

/-- A fault is taken, so it is answered as a next state too (R106). -/
theorem exec_eq_next (i : Instr) : ∃ t, exec i s = .next t := by
  obtain ⟨f, hraise⟩ | ⟨t, hnext, -⟩ := exec_raisesOrCompletes s i
  · exact ⟨_, hraise.trans (raise_eq i f s)⟩
  · exact ⟨t, hnext⟩

end Sys2Proof.Machine
end

section
/-! SUPPORT. The step of a ready machine, by what its word decodes to, and that a step always answers a next state (40_dispatch.md R52 to R55). -/

namespace Sys2Proof

/-- No bit of the two bytes is lost (R25). -/
theorem toNat_wordOfBytes (hi lo : Byte) : (wordOfBytes hi lo).toNat = hi.toNat * 256 + lo.toNat := by
  have hhi := hi.isLt
  have hlo := lo.isLt
  simp only [wordOfBytes, BitVec.toNat_ofNat]
  omega

/-- The byte decoder decodes the word of the first two bytes and hands on the rest. -/
theorem decode_eq_ok_iff {strict : Bool} {hi lo : Byte} {bytes rest : List Byte} {i : Instr} :
    decode strict (hi :: lo :: bytes) = .ok (i, rest) ↔
      decodeWord strict (wordOfBytes hi lo) = some i ∧ bytes = rest := by
  cases hword : decodeWord strict (wordOfBytes hi lo) with
  | none => simp [decode, hword]
  | some j => simp [decode, hword]

namespace Machine

variable {s : State} {w : Word}

/-- The advance of the dispatcher, as an addition of words (R53). -/
theorem pc_advance_eq_add (s : State) : s.advance.pc = s.pc + 2 := by
  apply BitVec.eq_of_toNat_eq
  simp

theorem dispatchWord_eq_exec {i : Instr} (h : decodeWord s.params.strictDecode w = some i) :
    dispatchWord w s = exec i s.advance := by
  simp only [dispatchWord, h]

theorem dispatchWord_eq_takeFault (h : decodeWord s.params.strictDecode w = none) :
    dispatchWord w s = takeFault .invalidInstruction (some w) s.pc s.advance := by
  simp only [dispatchWord, h]

/-- Settles O1: the two bytes at `pc` are the word that a ready machine dispatches. -/
theorem stepRunsTheDecodedInstruction : Obligations.StepRunsTheDecodedInstruction := by
  intro s i rest hready hdecode
  obtain ⟨hword, -⟩ := decode_eq_ok_iff.1 hdecode
  rw [step_eq_dispatchWord hready, dispatchWord_eq_exec hword]
  rfl

/-- Settles O11: the fault is taken after the advance, with the address from before it. -/
theorem invalidWordHalts : Obligations.InvalidWordHalts := by
  intro s w hready hbytes hword
  have hw : wordOfBytes (s.mem.read s.pc.toNat) (s.mem.read (s.pc.toNat + 1)) = w :=
    BitVec.eq_of_toNat_eq ((toNat_wordOfBytes _ _).trans hbytes.symm)
  rw [step_eq_dispatchWord hready, hw, dispatchWord_eq_takeFault hword, takeFault_eq, pc_advance_eq_add]
  exact ⟨_, rfl, rfl⟩

theorem dispatchWord_eq_next (w : Word) (s : State) : ∃ t, dispatchWord w s = .next t := by
  cases hword : decodeWord s.params.strictDecode w with
  | none => exact ⟨_, dispatchWord_eq_takeFault hword⟩
  | some i =>
    rw [dispatchWord_eq_exec hword]
    exact exec_eq_next s.advance i

theorem step_eq_next (s : State) : ∃ t, step s = .next t := by
  obtain hrest | ⟨hrun, hwait, hpc⟩ | hready := resting_or_fetchFault_or_ready s
  · exact ⟨s, step_eq_self hrest⟩
  · exact ⟨_, step_eq_fetchFault hrun hwait hpc⟩
  · rw [step_eq_dispatchWord hready]
    exact dispatchWord_eq_next _ s

/-- Settles O12: a step rests, takes the fault of the fetch or of the word, or runs an instruction, each of which
answers a next state. -/
theorem everyStepAnswersNext : Obligations.EveryStepAnswersNext :=
  ⟨step_eq_next, fun i s => exec_eq_next s i⟩

end Machine
end Sys2Proof
end

section
/-! SUPPORT. Many steps: `step(cycles)` is the iteration of `step`, and a machine that rests stays as it is (40_dispatch.md R50, R51, R56). -/

namespace Sys2Proof.Machine

variable {s : State}

/-- A run whose first step answers a next state goes on from there. -/
theorem coreRun_succ {M : Host.Core} {s t : M.State} (h : M.step s = .next t) (n : Nat) :
    M.run (n + 1) s = M.run n t := by
  simp only [Host.Core.run, h]

theorem coreRun_eq_self (h : s.run ≠ .running ∨ s.wait ≠ .none) (n : Nat) : Host.Core.run core n s = .next s := by
  induction n with
  | zero => rfl
  | succ n ih => exact (coreRun_succ (M := core) (step_eq_self h) n).trans ih

/-- Settles O15, by induction on the count: where `step(cycles)` stops, the halted state absorbs the steps left. -/
theorem stepCyclesIteratesStep : Obligations.StepCyclesIteratesStep := by
  intro n
  induction n with
  | zero => exact fun s => rfl
  | succ n ih =>
    intro s
    obtain ⟨t, ht⟩ := step_eq_next s
    refine Eq.trans ?_ (coreRun_succ (M := core) ht n).symm
    cases hrun : t.run with
    | halted f =>
      have hrest : Host.Core.run core n t = .next t := coreRun_eq_self (.inl (by simp [hrun])) n
      simp only [stepCycles, ht, hrun]
      exact hrest.symm
    | running =>
      simp only [stepCycles, ht, hrun]
      exact ih t

theorem stepCycles_eq_self (h : s.run ≠ .running ∨ s.wait ≠ .none) (n : Nat) : stepCycles n s = .next s :=
  (stepCyclesIteratesStep n s).trans (coreRun_eq_self h n)

end Sys2Proof.Machine
end

section
/-! SUPPORT. The wait for a key: what the host can do during it (40_dispatch.md R51, 60_exceptions.md R120; D30, D31). -/

namespace Sys2Proof.Machine

variable {s t : State} {x : RegIdx}

theorem OnlyChanges.refl (changed : List Part) (s : State) : OnlyChanges changed s s := by
  simp [OnlyChanges]

/-- A frame with more parts says less. -/
theorem OnlyChanges.mono {changed more : List Part} (hsub : changed ⊆ more) (h : OnlyChanges changed s t) :
    OnlyChanges more s t := by
  have weaken {p : Part} {kept : Prop} (hp : p ∉ changed → kept) : p ∉ more → kept :=
    fun hnot => hp (mt (@hsub p) hnot)
  obtain ⟨mem, regs, addr, pc, stack, DT, ST, display, keys, wait, run, params, draws⟩ := h
  exact ⟨weaken mem, weaken regs, weaken addr, weaken pc, weaken stack, weaken DT, weaken ST, weaken display,
    weaken keys, weaken wait, weaken run, weaken params, weaken draws⟩

theorem onlyChanges_tick (s : State) : OnlyChanges [.DT, .ST] s (tick s) := by
  simp [OnlyChanges, tick]

theorem onlyChanges_setKeys (ks : Keypad) (s : State) : OnlyChanges [.keys] s (s.setKeys ks) := by
  simp [OnlyChanges]

theorem status_eq_awaitingKey (hrun : s.run = .running) (hwait : s.wait = .awaiting x) : s.status = .awaitingKey := by
  simp only [State.status, hrun, hwait]

/-- Of the actions that neither deliver a key nor reset, the steps leave a resting machine as it is, and the tick and
the snapshot write the timers and the keypad. -/
theorem onlyChanges_hostAct_of_resting (hrest : s.run ≠ .running ∨ s.wait ≠ .none) {a : HostAction}
    (hdeliver : ∀ k, a ≠ .deliverKey k) (hreset : ∀ image, a ≠ .reset image) (h : hostAct a s = .next t) :
    OnlyChanges [.DT, .ST, .keys] s t := by
  have hstay (hself : Host.Outcome.next s = (.next t : Result)) : OnlyChanges [.DT, .ST, .keys] s t := by
    cases hself
    exact .refl _ s
  cases a with
  | reset image => exact absurd rfl (hreset image)
  | deliverKey k => exact absurd rfl (hdeliver k)
  | step => exact hstay ((step_eq_self hrest).symm.trans h)
  | stepCycles n => exact hstay ((stepCycles_eq_self hrest n).symm.trans h)
  | tick =>
    cases h
    exact (onlyChanges_tick s).mono (by simp)
  | setKeys ks =>
    cases h
    exact (onlyChanges_setKeys ks s).mono (by simp)

/-- Settles O9: the wait state, the run state and `pc` are outside what the host's actions write during the wait. -/
theorem awaitingMachineWaitsForDelivery : Obligations.AwaitingMachineWaitsForDelivery := by
  intro s x hrun hwait
  have hrest : s.run ≠ .running ∨ s.wait ≠ .none := .inr (by simp [hwait])
  refine ⟨step_eq_self hrest, status_eq_awaitingKey hrun hwait, fun a t hdeliver hreset h => ?_⟩
  have hframe : OnlyChanges [.DT, .ST, .keys] s t := onlyChanges_hostAct_of_resting hrest hdeliver hreset h
  have hkept := hframe
  obtain ⟨-, -, -, hpc, -, -, -, -, -, hwait', hrun', -, -⟩ := hkept
  have htwait : t.wait = .awaiting x := (hwait' (by decide)).trans hwait
  have htrun : t.run = .running := (hrun' (by decide)).trans hrun
  exact ⟨htwait, hpc (by decide), status_eq_awaitingKey htrun htwait, hframe⟩

end Sys2Proof.Machine
end

section
/-! SUPPORT. The pixels a DRW draws to: the sprite's coordinates in row-major order, and what the off-screen rule makes of them (41_display.md R58; D8, D10). -/

namespace Sys2Proof.Machine

variable {s : State} {x y : RegIdx} {n : Fin 16}

/-! ### The sprite's coordinates -/

/-- The list `T` of R58 before the off-screen rule, for the sprite that DRW reads. -/
def spriteCoords (s : State) (x y : RegIdx) (n : Fin 16) : List (Nat × Nat) :=
  spriteTargets (s.reg x).toNat (s.reg y).toNat (spriteRows s n)

theorem drawTargets_eq_placeTargets (s : State) (x y : RegIdx) (n : Fin 16) :
    drawTargets s x y n = placeTargets s.params.drawOffscreen (spriteCoords s x y n) := rfl

/-- A set bit of the sprite, as a bit of the rows that DRW reads; bit index 0 is the most significant (D10). -/
theorem spriteBit_iff {r b : Nat} :
    SpriteBit s n r b ↔ ∃ h : r < (spriteRows s n).length, b < 8 ∧ (spriteRows s n)[r].getMsbD b = true := by
  have hlen : (spriteRows s n).length = n.val := Memory.length_readBytes ..
  have hrow (h : r < (spriteRows s n).length) : (spriteRows s n)[r] = s.mem.read (s.I.toNat + r) :=
    Memory.getElem_readBytes ..
  constructor
  · rintro ⟨hr, hb, hset⟩
    have hr' : r < (spriteRows s n).length := hlen ▸ hr
    exact ⟨hr', hb, by simpa [hrow hr', BitVec.getMsbD, hb] using hset⟩
  · rintro ⟨hr, hb, hset⟩
    exact ⟨hlen ▸ hr, hb, by simpa [hrow hr, BitVec.getMsbD, hb] using hset⟩

theorem mem_spriteCoords {c : Nat × Nat} :
    c ∈ spriteCoords s x y n ↔ ∃ r b, SpriteBit s n r b ∧ c = ((s.reg x).toNat + b, (s.reg y).toNat + r) := by
  simp only [spriteCoords, mem_spriteTargets, spriteBit_iff, ← exists_and_right, and_assoc]

/-- Row by row, and within a row from left to right (R58). -/
def RowMajor (c c' : Nat × Nat) : Prop := c.2 < c'.2 ∨ (c.2 = c'.2 ∧ c.1 < c'.1)

theorem pairwise_spriteBits (row : Byte) : (spriteBits row).Pairwise (· < ·) :=
  List.Pairwise.filter _ List.pairwise_lt_range

theorem pairwise_spriteTargets (vx : Nat) : ∀ (rows : List Byte) (vy : Nat),
    (spriteTargets vx vy rows).Pairwise RowMajor
  | [], _ => .nil
  | row :: rows, vy => by
    rw [spriteTargets, List.pairwise_append, List.pairwise_map]
    refine ⟨(pairwise_spriteBits row).imp fun h => .inr ⟨rfl, Nat.add_lt_add_left h vx⟩,
      pairwise_spriteTargets vx rows (vy + 1), fun c hc c' hc' => .inl ?_⟩
    obtain ⟨b, -, rfl⟩ := List.mem_map.1 hc
    obtain ⟨r, b', -, -, -, rfl⟩ := (mem_spriteTargets ..).1 hc'
    simp only
    omega

/-- The first element that meets a condition is the one no other such element comes before. -/
theorem find?_eq_some_of_pairwise_rowMajor {l : List (Nat × Nat)} (hl : l.Pairwise RowMajor)
    {P : Nat × Nat → Bool} {c : Nat × Nat} (hc : c ∈ l) (hP : P c = true)
    (hfirst : ∀ c' ∈ l, P c' = true → ¬RowMajor c' c) : l.find? P = some c := by
  obtain ⟨before, after, rfl⟩ := List.append_of_mem hc
  rw [List.find?_eq_some_iff_append]
  refine ⟨hP, before, after, rfl, fun c' hc' => ?_⟩
  have horder : RowMajor c' c := (List.pairwise_append.1 hl).2.2 c' hc' c (by simp)
  have hnot : ¬P c' = true := fun hP' => hfirst c' (by simp [hc']) hP' horder
  simpa using hnot

/-! ### The off-screen rule -/

theorem onGrid_eq_some {c : Nat × Nat} {p : Pixel} : onGrid c = some p ↔ p.1.val = c.1 ∧ p.2.val = c.2 := by
  unfold onGrid
  split
  · simp [Prod.ext_iff, Fin.ext_iff, eq_comm]
  · next h =>
    simp only [reduceCtorEq, false_iff]
    rintro ⟨hx, hy⟩
    exact h ⟨hx ▸ p.1.isLt, hy ▸ p.2.isLt⟩

theorem onGrid_eq_none {c : Nat × Nat} : onGrid c = none ↔ 64 ≤ c.1 ∨ 32 ≤ c.2 := by
  unfold onGrid
  split <;> simp <;> omega

theorem onGrid_isNone_iff_offGrid {r b : Nat} :
    (onGrid ((s.reg x).toNat + b, (s.reg y).toNat + r)).isNone = true ↔ OffGrid s x y r b := by
  rw [Option.isNone_iff_eq_none, onGrid_eq_none]
  rfl

/-- What `P_DRAW_OFFSCREEN` makes of one coordinate, where it raises no fault (R58, D8). -/
def placeCoord : OffscreenMode → Nat × Nat → Option Pixel
  | .wrap, c => some (wrapped c)
  | .fault, c => onGrid c
  | .clip, c => onGrid c

theorem placeCoord_wrap_eq_some {c : Nat × Nat} {p : Pixel} :
    placeCoord .wrap c = some p ↔ p.1.val = c.1 % 64 ∧ p.2.val = c.2 % 32 := by
  simp [placeCoord, wrapped, Prod.ext_iff, Fin.ext_iff, eq_comm]

theorem placeTargets_eq_ok {mode : OffscreenMode} {l : List (Nat × Nat)}
    (h : mode = .fault → ∀ c ∈ l, ¬(onGrid c).isNone = true) :
    placeTargets mode l = .ok (l.filterMap (placeCoord mode)) := by
  cases mode with
  | fault =>
    have hnone : l.find? (fun c => (onGrid c).isNone) = none := List.find?_eq_none.2 (h rfl)
    simp only [placeTargets, hnone]
    rfl
  | clip => rfl
  | wrap => exact congrArg Except.ok (congrFun List.filterMap_eq_map l).symm

theorem placeTargets_eq_error {l : List (Nat × Nat)} {c : Nat × Nat}
    (h : l.find? (fun c => (onGrid c).isNone) = some c) : placeTargets .fault l = .error c := by
  simp only [placeTargets, h]

/-- The pixels DRW draws to when it does not fault, in the order it draws them. -/
def drawnPixels (s : State) (x y : RegIdx) (n : Fin 16) : List Pixel :=
  (spriteCoords s x y n).filterMap (placeCoord s.params.drawOffscreen)

theorem drawnPixel_iff_exists_placeCoord {p : Pixel} :
    DrawnPixel s x y n p ↔ ∃ c ∈ spriteCoords s x y n, placeCoord s.params.drawOffscreen c = some p := by
  unfold DrawnPixel
  cases s.params.drawOffscreen with
  | wrap => simp [mem_spriteCoords, placeCoord_wrap_eq_some]
  | fault => simp [mem_spriteCoords, placeCoord, onGrid_eq_some]
  | clip => simp [mem_spriteCoords, placeCoord, onGrid_eq_some]

theorem mem_drawnPixels {p : Pixel} : p ∈ drawnPixels s x y n ↔ DrawnPixel s x y n p := by
  rw [drawnPixels, List.mem_filterMap, drawnPixel_iff_exists_placeCoord]

/-- No pixel is drawn to twice: a sprite is at most 8 wide and 15 high, so wrapping keeps its coordinates apart. -/
theorem placeCoord_injOn_spriteCoords {mode : OffscreenMode} {c c' : Nat × Nat} (hc : c ∈ spriteCoords s x y n)
    (hc' : c' ∈ spriteCoords s x y n) {p : Pixel} (hp : placeCoord mode c = some p)
    (hp' : placeCoord mode c' = some p) : c = c' := by
  have hgrid (h : onGrid c = some p) (h' : onGrid c' = some p) : c = c' := by
    obtain ⟨hcol, hrow⟩ := onGrid_eq_some.1 h
    obtain ⟨hcol', hrow'⟩ := onGrid_eq_some.1 h'
    exact Prod.ext (hcol.symm.trans hcol') (hrow.symm.trans hrow')
  cases mode with
  | fault => exact hgrid hp hp'
  | clip => exact hgrid hp hp'
  | wrap =>
    obtain ⟨r, b, ⟨hr, hb, -⟩, rfl⟩ := mem_spriteCoords.1 hc
    obtain ⟨r', b', ⟨hr', hb', -⟩, rfl⟩ := mem_spriteCoords.1 hc'
    rw [placeCoord_wrap_eq_some] at hp hp'
    have hn := n.isLt
    apply Prod.ext <;> simp only at hp hp' ⊢ <;> omega

theorem nodup_drawnPixels : (drawnPixels s x y n).Nodup := by
  have hcoords : (spriteCoords s x y n).Pairwise RowMajor := pairwise_spriteTargets ..
  refine List.Pairwise.filterMap _ (fun c c' hcc' p hp p' hp' hpp' => ?_) (List.Pairwise.and_mem.1 hcoords)
  obtain ⟨hc, hc', horder⟩ := hcc'
  subst hpp'
  cases placeCoord_injOn_spriteCoords hc hc' hp hp'
  simp [RowMajor] at horder

end Sys2Proof.Machine
end

section
/-! SUPPORT. The display instructions: when DRW completes and what it then does, its two faults in their order, and the second draw (41_display.md R57, R58). -/

namespace Sys2Proof.Machine

variable {s : State} {x y : RegIdx} {n : Fin 16}

theorem onlyChanges_setDisplay (d : Display) (s : State) : OnlyChanges [.display] s (s.setDisplay d) := by
  simp [OnlyChanges]

/-- Settles O17: CLS writes the clear display and nothing else. -/
theorem clsClearsEveryPixel : Obligations.ClsClearsEveryPixel :=
  fun _ s => ⟨s.setDisplay Display.clear, rfl, Display.pix_clear, onlyChanges_setDisplay _ s⟩

/-! ### The drawing of a list of pixels -/

/-- The state after the pixels are drawn and the collision is written to the flag (R58). -/
def State.drawSprite (s : State) (ps : List Pixel) : State :=
  (s.setDisplay (drawPixels ps s.display false).1).setReg Config.flagReg
    (flagByte (drawPixels ps s.display false).2)

variable {ps : List Pixel}

theorem onlyChanges_drawSprite (s : State) (ps : List Pixel) :
    OnlyChanges [.display, .regs] s (s.drawSprite ps) := by
  simp [OnlyChanges, State.drawSprite]

theorem regsKeptBut_drawSprite (s : State) (ps : List Pixel) : RegsKeptBut [15] s (s.drawSprite ps) := by
  intro r hr
  have hr' : r ≠ Config.flagReg := by simpa using hr
  simp [State.drawSprite, hr']

theorem pix_drawSprite (hps : ps.Nodup) (s : State) (p : Pixel) :
    (s.drawSprite ps).display.pix p = (s.display.pix p ^^ decide (p ∈ ps)) :=
  pix_drawPixels ps s.display false hps p

theorem flag_drawSprite (hps : ps.Nodup) (s : State) :
    (s.drawSprite ps).reg 15 = flagByte (ps.any s.display.pix) := by
  simp [State.drawSprite, collision_drawPixels ps _ _ hps]

theorem flagByte_eq_one_iff {b : Bool} : flagByte b = 1 ↔ b = true := by
  cases b <;> decide

theorem flag_drawSprite_eq_one_iff (hps : ps.Nodup) (s : State) :
    (s.drawSprite ps).reg 15 = 1 ↔ ∃ p ∈ ps, s.display.pix p = true := by
  rw [flag_drawSprite hps, flagByte_eq_one_iff, List.any_eq_true]

theorem flag_drawSprite_eq_zero (hps : ps.Nodup) (s : State) (h : ¬∃ p ∈ ps, s.display.pix p = true) :
    (s.drawSprite ps).reg 15 = 0 := by
  rw [flag_drawSprite hps, Bool.eq_false_iff.2 (mt List.any_eq_true.1 h)]
  rfl

/-- A pixel is inverted by both drawings or by neither (L1.3). -/
theorem display_drawSprite_twice (hps : ps.Nodup) (s : State) :
    ((s.drawSprite ps).drawSprite ps).display = s.display := by
  apply Display.ext_pix
  intro p
  simp [pix_drawSprite hps]

/-! ### When DRW completes, and when it faults -/

theorem exec_drw (x y : RegIdx) (n : Fin 16) (s : State) : exec (.drw x y n) s = execDrw x y n s := rfl

/-- The rows lie in memory and, under FAULT, every set bit on the grid (R58). -/
def DrwCompletes (s : State) (x y : RegIdx) (n : Fin 16) : Prop :=
  (n.val = 0 ∨ s.I.toNat + n.val ≤ 4096) ∧
  (s.params.drawOffscreen = .fault → ∀ r b, SpriteBit s n r b → ¬OffGrid s x y r b)

theorem execDrw_eq_next (h : DrwCompletes s x y n) :
    execDrw x y n s = .next (s.drawSprite (drawnPixels s x y n)) := by
  obtain ⟨hfit, hgrid⟩ := h
  have hin : firstOutside s.I.toNat n.val = none := firstOutside_eq_none.2 hfit
  have htargets : drawTargets s x y n = .ok (drawnPixels s x y n) := by
    refine placeTargets_eq_ok fun hmode c hc => ?_
    obtain ⟨r, b, hset, rfl⟩ := mem_spriteCoords.1 hc
    exact mt onGrid_isNone_iff_offGrid.1 (hgrid hmode r b hset)
  simp only [execDrw, hin, htargets, State.drawSprite]

theorem firstOutside_eq_max {base len : Nat} (hlen : len ≠ 0) (h : 4096 < base + len) :
    firstOutside base len = some (max base 4096) := by
  have hout : ¬(len = 0 ∨ base + len ≤ Config.memSize) := by simp only [Config.memSize]; omega
  simp only [firstOutside, hout, if_false]

theorem execDrw_eq_raise_memory (x y : RegIdx) (hn : n.val ≠ 0) (h : 4096 < s.I.toNat + n.val) :
    execDrw x y n s = raise (.drw x y n) (.undefinedAccess (.memory (max s.I.toNat 4096))) s := by
  simp only [execDrw, firstOutside_eq_max hn h]

theorem execDrw_eq_raise_display (hfit : n.val = 0 ∨ s.I.toNat + n.val ≤ 4096)
    (hmode : s.params.drawOffscreen = .fault) {c : Nat × Nat}
    (hc : (spriteCoords s x y n).find? (fun c => (onGrid c).isNone) = some c) :
    execDrw x y n s = raise (.drw x y n) (.undefinedAccess (.display c.1 c.2)) s := by
  have hin : firstOutside s.I.toNat n.val = none := firstOutside_eq_none.2 hfit
  have htargets : drawTargets s x y n = .error c := by
    rw [drawTargets_eq_placeTargets, hmode, placeTargets_eq_error hc]
  simp only [execDrw, hin, htargets]

theorem execDrw_eq_raise (h : ¬DrwCompletes s x y n) : ∃ f, execDrw x y n s = raise (.drw x y n) f s := by
  by_cases hfit : n.val = 0 ∨ s.I.toNat + n.val ≤ 4096
  · have hbit := not_and.1 h hfit
    push Not at hbit
    obtain ⟨hmode, r, b, hset, hoff⟩ := hbit
    have hfound : ((spriteCoords s x y n).find? fun c => (onGrid c).isNone).isSome = true :=
      List.find?_isSome.2 ⟨_, mem_spriteCoords.2 ⟨r, b, hset, rfl⟩, onGrid_isNone_iff_offGrid.2 hoff⟩
    obtain ⟨c, hc⟩ := Option.isSome_iff_exists.1 hfound
    exact ⟨_, execDrw_eq_raise_display hfit hmode hc⟩
  · exact ⟨_, execDrw_eq_raise_memory x y (by omega) (by omega)⟩

/-- Settles O18: DRW draws its pixels, none of them twice. -/
theorem drwInvertsTheSpritePixels : Obligations.DrwInvertsTheSpritePixels := by
  intro x y n s hfit hgrid
  have hps : (drawnPixels s x y n).Nodup := nodup_drawnPixels
  refine ⟨_, execDrw_eq_next ⟨hfit, hgrid⟩, fun p hp => ?_, fun p hp => ?_, fun hset => ?_, fun hset => ?_,
    regsKeptBut_drawSprite s _, onlyChanges_drawSprite s _⟩
  · simp [pix_drawSprite hps, mem_drawnPixels, hp]
  · simp [pix_drawSprite hps, mem_drawnPixels, hp]
  · exact (flag_drawSprite_eq_one_iff hps s).2 (by simpa only [mem_drawnPixels] using hset)
  · exact flag_drawSprite_eq_zero hps s (by simpa only [mem_drawnPixels] using hset)

theorem haltsWith_of_eq_raise {r : Result} {i : Instr} {f : Fault} (h : r = raise i f s) :
    HaltsWith r (handlerRecord i f s) :=
  ⟨_, h.trans (raise_eq i f s), rfl⟩

/-- The first coordinate off the grid, as the off-screen rule finds it (R58, R108). -/
theorem find?_offGrid_spriteCoords {r b : Nat} (hset : SpriteBit s n r b) (hoff : OffGrid s x y r b)
    (hfirst : ∀ r' b', SpriteBit s n r' b' → OffGrid s x y r' b' → r < r' ∨ (r = r' ∧ b ≤ b')) :
    (spriteCoords s x y n).find? (fun c => (onGrid c).isNone) =
      some ((s.reg x).toNat + b, (s.reg y).toNat + r) := by
  refine find?_eq_some_of_pairwise_rowMajor (pairwise_spriteTargets ..) (mem_spriteCoords.2 ⟨r, b, hset, rfl⟩)
    (onGrid_isNone_iff_offGrid.2 hoff) fun c' hc' hoff' => ?_
  obtain ⟨r', b', hset', rfl⟩ := mem_spriteCoords.1 hc'
  have hle := hfirst r' b' hset' (onGrid_isNone_iff_offGrid.1 hoff')
  simp only [RowMajor]
  omega

/-- Settles O19: the range check answers the first address out of memory, and the search for a coordinate off the grid
goes in row-major order. -/
theorem drwFaultsOutOfRange : Obligations.DrwFaultsOutOfRange :=
  fun x y _ _ => ⟨fun hn hout => haltsWith_of_eq_raise (execDrw_eq_raise_memory x y hn hout),
    fun hfit hmode _ _ hset hoff hfirst => haltsWith_of_eq_raise
      (execDrw_eq_raise_display hfit hmode (find?_offGrid_spriteCoords hset hoff hfirst))⟩

/-! ### The second draw -/

/-- What DRW reads apart from the display: two states that agree on it have the same sprite at the same place. -/
def SameSprite (x y : RegIdx) (s t : State) : Prop :=
  t.mem = s.mem ∧ t.I = s.I ∧ t.params = s.params ∧ t.reg x = s.reg x ∧ t.reg y = s.reg y

variable {t : State}

theorem SameSprite.drwCompletes_iff (h : SameSprite x y s t) : DrwCompletes t x y n ↔ DrwCompletes s x y n := by
  obtain ⟨hmem, hI, hparams, hx, hy⟩ := h
  simp only [DrwCompletes, SpriteBit, OffGrid, hmem, hI, hparams, hx, hy]

theorem SameSprite.drawnPixels_eq (h : SameSprite x y s t) : drawnPixels t x y n = drawnPixels s x y n := by
  obtain ⟨hmem, hI, hparams, hx, hy⟩ := h
  simp only [drawnPixels, spriteCoords, spriteRows, hmem, hI, hparams, hx, hy]

/-- The second draw inverts a target back, so its flag says that the target was 0 before the first. -/
theorem flag_drawSprite_twice_eq_one_iff (hps : ps.Nodup) (s : State) :
    ((s.drawSprite ps).drawSprite ps).reg 15 = 1 ↔ ∃ p ∈ ps, s.display.pix p = false := by
  rw [flag_drawSprite_eq_one_iff hps]
  refine exists_congr fun p => and_congr_right fun hp => ?_
  simp [pix_drawSprite hps, hp]

/-- Settles O20: either both draws complete and draw the same pixels, or both halt the machine. -/
theorem drawingTwiceRestoresTheDisplay : Obligations.DrawingTwiceRestoresTheDisplay := by
  intro x y n s t u hst htu hx hy
  rw [exec_drw] at hst htu
  by_cases hs : DrwCompletes s x y n
  · have hps : (drawnPixels s x y n).Nodup := nodup_drawnPixels
    rw [execDrw_eq_next hs] at hst
    cases hst
    have hsame : SameSprite x y s (s.drawSprite (drawnPixels s x y n)) := ⟨rfl, rfl, rfl, hx, hy⟩
    rw [execDrw_eq_next (hsame.drwCompletes_iff.2 hs), hsame.drawnPixels_eq] at htu
    cases htu
    refine ⟨display_drawSprite_twice hps s, fun _ _ => ?_⟩
    simpa only [mem_drawnPixels] using flag_drawSprite_twice_eq_one_iff hps s
  · obtain ⟨f, hf⟩ := execDrw_eq_raise hs
    rw [hf, raise_eq] at hst
    cases hst
    obtain ⟨f', hf'⟩ := execDrw_eq_raise (mt (SameSprite.drwCompletes_iff ⟨rfl, rfl, rfl, hx, hy⟩).1 hs)
    rw [hf', raise_eq] at htu
    cases htu
    exact ⟨rfl, fun _ hrun => nomatch hrun⟩

end Sys2Proof.Machine
end

section
/-! SUPPORT. Control flow: when RET, JP and CALL complete and when they fault, and what a skip does to `pc` (42_control.md R61 to R69). -/

namespace Sys2Proof.Machine

variable {s : State}

/-! ### Writes of `pc` and of the stack -/

/-- A target that fits in 16 bits is not reduced (R16). -/
theorem toNat_pc_setPc {v : Nat} (hv : v < 0x10000) (s : State) : (s.setPc v).pc.toNat = v := by
  rw [State.pc_setPc, BitVec.toNat_ofNat]
  omega

theorem setPc_toNat_pc (s : State) : s.setPc s.pc.toNat = s := by
  simp only [State.setPc, BitVec.ofNat_toNat, BitVec.setWidth_eq]

theorem onlyChanges_setPc (v : Nat) (s : State) : OnlyChanges [.pc] s (s.setPc v) := by
  simp [OnlyChanges]

theorem onlyChanges_pushed_setPc (a : Word) (v : Nat) (s : State) :
    OnlyChanges [.pc, .stack] s ((s.pushed a).setPc v) := by
  simp [OnlyChanges]

theorem onlyChanges_popped_setPc (v : Nat) (s : State) : OnlyChanges [.pc, .stack] s (s.popped.setPc v) := by
  simp [OnlyChanges]

/-! ### RET, JP and CALL -/

variable {a : Word} {rest : List Word} {nnn : Addr}

theorem execRet_eq_next (dc : BitVec 8) (h : s.stack = a :: rest) :
    execRet dc s = .next (s.popped.setPc a.toNat) := by
  simp only [execRet, h]

/-- On an empty stack the fault reports the stack pointer 0 (R60, R103). -/
theorem execRet_eq_raise (dc : BitVec 8) (h : s.stack = []) :
    execRet dc s = raise (.ret dc) (.stackUnderflow 0) s := by
  simp only [execRet, State.sp, h, List.length_nil]

theorem execJp_eq_next (h : 0x200 ≤ nnn.toNat) (s : State) : execJp nnn s = .next (s.setPc nnn.toNat) :=
  if_neg (not_lt.2 h)

theorem execJp_eq_raise (h : nnn.toNat < 0x200) (s : State) :
    execJp nnn s = raise (.jp nnn) (.invalidJumpTarget nnn) s :=
  if_pos h

theorem execCall_eq_next (h : 0x200 ≤ nnn.toNat) (hsp : s.sp < 12) :
    execCall nnn s = .next ((s.pushed s.pc).setPc nnn.toNat) :=
  (if_neg (not_lt.2 h)).trans (if_neg (not_le.2 hsp))

theorem execCall_eq_raise_full (h : 0x200 ≤ nnn.toNat) (hsp : 12 ≤ s.sp) :
    execCall nnn s = raise (.call nnn) (.stackOverflow s.sp) s :=
  (if_neg (not_lt.2 h)).trans (if_pos hsp)

/-- The target is checked before the stack (D20). -/
theorem execCall_eq_raise_low (h : nnn.toNat < 0x200) (s : State) :
    execCall nnn s = raise (.call nnn) (.invalidJumpTarget nnn) s :=
  if_pos h

/-- Settles O25: the call pushes the advanced `pc`, and the return pops it back into `pc`. -/
theorem returnUndoesCall : Obligations.ReturnUndoesCall := by
  intro nnn dc s htarget hsp
  have hstack : ((s.pushed s.pc).setPc nnn.toNat).stack = s.pc :: s.stack := rfl
  have hback : ((s.pushed s.pc).setPc nnn.toNat).popped.setPc s.pc.toNat = s := setPc_toNat_pc s
  exact ⟨_, execCall_eq_next htarget hsp, (execRet_eq_next dc hstack).trans (congrArg _ hback)⟩

/-- Settles O21: the stack is empty, or its newest entry goes to `pc` unchanged. -/
theorem retPopsTheNewestAddress : Obligations.RetPopsTheNewestAddress := by
  intro dc s
  refine ⟨fun a rest hstack => ?_, fun hempty => haltsWith_of_eq_raise (execRet_eq_raise dc hempty)⟩
  refine ⟨_, execRet_eq_next dc hstack, ?_, ?_, onlyChanges_popped_setPc _ s⟩
  · simp
  · simp [hstack]

/-- Settles O22: a target of 0x200 or above passes the check. -/
theorem jpSetsPc : Obligations.JpSetsPc := by
  intro nnn s htarget
  have hnnn := nnn.isLt
  exact ⟨_, execJp_eq_next htarget s, toNat_pc_setPc (by omega) s, onlyChanges_setPc _ s⟩

/-- Settles O23: past the check of the target, the depth of the stack decides. -/
theorem callPushesAndJumps : Obligations.CallPushesAndJumps := by
  intro nnn s htarget
  have hnnn := nnn.isLt
  refine ⟨fun hroom => ?_, fun hfull => ?_⟩
  · exact ⟨_, execCall_eq_next htarget hroom, toNat_pc_setPc (by omega) _, rfl, rfl,
      onlyChanges_pushed_setPc _ _ s⟩
  · rw [← hfull]
    exact haltsWith_of_eq_raise (execCall_eq_raise_full htarget hfull.ge)

/-- Settles O24: the kind is InvalidJumpTarget, for both instructions and whatever the stack holds. -/
theorem lowJumpTargetHalts : Obligations.LowJumpTargetHalts := by
  rintro nnn s i hlow (rfl | rfl)
  · exact ⟨_, .inl rfl, haltsWith_of_eq_raise (execJp_eq_raise hlow s)⟩
  · exact ⟨_, .inl rfl, haltsWith_of_eq_raise (execCall_eq_raise_low hlow s)⟩

/-! ### Skips and jump-with-offset -/

theorem onlyChanges_skipIf (c : Bool) (s : State) : OnlyChanges [.pc] s (skipIf c s) := by
  rw [skipIf_eq]
  exact onlyChanges_setPc _ s

/-- A skip adds 2 to the advanced `pc`, as words (R61, R127). -/
theorem pc_skipIf (c : Bool) (s : State) : (skipIf c s).pc = s.pc + if c then 2 else 0 := by
  cases c with
  | false => exact (BitVec.add_zero s.pc).symm
  | true => exact pc_advance_eq_add s

theorem pc_skipIf_beq (a b : Byte) (s : State) : (skipIf (a == b) s).pc = s.pc + if a = b then 2 else 0 := by
  simp only [pc_skipIf, beq_iff_eq]

theorem pc_skipIf_bne (a b : Byte) (s : State) : (skipIf (a != b) s).pc = s.pc + if a = b then 0 else 2 := by
  simp only [pc_skipIf, bne_iff_ne, ite_not]

/-- Settles O26: each is a skip on the comparison of the register with the immediate. -/
theorem immediateSkipsFollowTheComparison : Obligations.ImmediateSkipsFollowTheComparison :=
  fun _ _ s => ⟨⟨_, rfl, pc_skipIf_beq _ _ s, onlyChanges_skipIf _ s⟩,
    ⟨_, rfl, pc_skipIf_bne _ _ s, onlyChanges_skipIf _ s⟩⟩

/-- Settles O27: each is a skip on the comparison of the two registers. -/
theorem registerSkipsFollowTheComparison : Obligations.RegisterSkipsFollowTheComparison :=
  fun _ _ _ s => ⟨⟨_, rfl, pc_skipIf_beq _ _ s, onlyChanges_skipIf _ s⟩,
    ⟨_, rfl, pc_skipIf_bne _ _ s, onlyChanges_skipIf _ s⟩⟩

/-- Settles O28: the largest target, 0xFFF + 0xFF, fits in `pc`. -/
theorem jumpWithOffsetAddsRegisterZero : Obligations.JumpWithOffsetAddsRegisterZero := by
  intro nnn s
  have hnnn := nnn.isLt
  have hreg := (s.reg 0).isLt
  exact ⟨_, rfl, toNat_pc_setPc (by unfold offsetTarget; omega) s, onlyChanges_setPc _ s⟩

end Sys2Proof.Machine
end

section
/-! SUPPORT. What the instructions with a range check write when they complete, and that they and all others but the control flow keep `pc` (42_control.md R61). -/

namespace Sys2Proof.Machine

variable {s t : State}

/-! ### The instructions with a range check -/

theorem execDrw_raises_or_draws (x y : RegIdx) (n : Fin 16) (s : State) :
    (∃ f, execDrw x y n s = raise (.drw x y n) f s) ∨ ∃ ps, execDrw x y n s = .next (s.drawSprite ps) := by
  by_cases h : DrwCompletes s x y n
  · exact .inr ⟨_, execDrw_eq_next h⟩
  · exact .inl (execDrw_eq_raise h)

theorem execLdBVx_raises_or_stores (x : RegIdx) (dc : Nibble) (s : State) :
    (∃ f, execLdBVx x dc s = raise (.ldBVx x dc) f s) ∨ ∃ m, execLdBVx x dc s = .next (s.setMem m) := by
  unfold execLdBVx
  split
  · exact .inl ⟨_, rfl⟩
  · exact .inr ⟨_, rfl⟩

theorem execLdMemVx_raises_or_stores (x : RegIdx) (s : State) :
    (∃ f, execLdMemVx x s = raise (.ldMemVx x) f s) ∨ ∃ m v, execLdMemVx x s = .next ((s.setMem m).setI v) := by
  unfold execLdMemVx
  split
  · exact .inl ⟨_, rfl⟩
  · exact .inr ⟨_, _, rfl⟩

theorem execLdVxMem_raises_or_loads (x : RegIdx) (s : State) :
    (∃ f, execLdVxMem x s = raise (.ldVxMem x) f s) ∨
      ∃ regs v, execLdVxMem x s = .next ((s.setRegs regs).setI v) := by
  unfold execLdVxMem
  split
  · exact .inl ⟨_, rfl⟩
  · exact .inr ⟨_, _, rfl⟩

/-! ### Writers of `pc` -/

/-- If the answer is a next state, its `pc` is that of `s`. -/
def KeepsPc (s : State) (r : Result) : Prop := ∀ t, r = .next t → t.pc = s.pc

theorem keepsPc_of_eq_next {r : Result} (hr : r = .next t) (ht : t.pc = s.pc) : KeepsPc s r := by
  intro u hu
  cases hr.symm.trans hu
  exact ht

/-- A fault leaves `pc` as it is (R106). -/
theorem keepsPc_of_eq_raise {r : Result} {i : Instr} {f : Fault} (hr : r = raise i f s) : KeepsPc s r :=
  keepsPc_of_eq_next (hr.trans (raise_eq i f s)) rfl

theorem keepsPc_execDrw (x y : RegIdx) (n : Fin 16) (s : State) : KeepsPc s (execDrw x y n s) := by
  obtain ⟨f, hraise⟩ | ⟨ps, hdraw⟩ := execDrw_raises_or_draws x y n s
  · exact keepsPc_of_eq_raise hraise
  · exact keepsPc_of_eq_next hdraw rfl

theorem keepsPc_execLdBVx (x : RegIdx) (dc : Nibble) (s : State) : KeepsPc s (execLdBVx x dc s) := by
  obtain ⟨f, hraise⟩ | ⟨m, hstore⟩ := execLdBVx_raises_or_stores x dc s
  · exact keepsPc_of_eq_raise hraise
  · exact keepsPc_of_eq_next hstore rfl

theorem keepsPc_execLdMemVx (x : RegIdx) (s : State) : KeepsPc s (execLdMemVx x s) := by
  obtain ⟨f, hraise⟩ | ⟨m, v, hstore⟩ := execLdMemVx_raises_or_stores x s
  · exact keepsPc_of_eq_raise hraise
  · exact keepsPc_of_eq_next hstore rfl

theorem keepsPc_execLdVxMem (x : RegIdx) (s : State) : KeepsPc s (execLdVxMem x s) := by
  obtain ⟨f, hraise⟩ | ⟨regs, v, hload⟩ := execLdVxMem_raises_or_loads x s
  · exact keepsPc_of_eq_raise hraise
  · exact keepsPc_of_eq_next hload rfl

/-- Settles O51: the instructions with a range check keep `pc`, whether they fault or complete, and so do the others
outside the list, which complete on their one path. -/
theorem pcWritersAreTheListedInstructions : Obligations.PcWritersAreTheListedInstructions := by
  intro i s t h hpc
  cases i with
  | ret | jp | call | jpV0 | seImm | sneImm | seReg | sneReg | skp | sknp => simp
  | drw x y n => exact absurd (keepsPc_execDrw x y n s t h) hpc
  | ldBVx x dc => exact absurd (keepsPc_execLdBVx x dc s t h) hpc
  | ldMemVx x => exact absurd (keepsPc_execLdMemVx x s t h) hpc
  | ldVxMem x => exact absurd (keepsPc_execLdVxMem x s t h) hpc
  | _ =>
    cases h
    exact absurd rfl hpc

end Sys2Proof.Machine
end

section
/-! SUPPORT. The ALU instructions: one register written, or a result and then its flag (43_alu.md R72 to R85; D3, D4, D6, D21). -/

namespace Sys2Proof.Machine

variable {x : RegIdx}

/-! ### One register written, or a result and its flag -/

theorem onlyChanges_setReg (x : RegIdx) (v : Byte) (s : State) : OnlyChanges [.regs] s (s.setReg x v) := by
  simp [OnlyChanges]

theorem regsKeptBut_setReg (x : RegIdx) (v : Byte) (s : State) : RegsKeptBut [x] s (s.setReg x v) := by
  intro r hr
  have hrx : r ≠ x := by simpa using hr
  simp [hrx]

theorem reg_setReg_self (x : RegIdx) (v : Byte) (s : State) : (s.setReg x v).reg x = v := by
  simp

theorem onlyChanges_writeResultFlag (x : RegIdx) (v : Byte) (b : Bool) (s : State) :
    OnlyChanges [.regs] s (writeResultFlag x v b s) := by
  simp [OnlyChanges, writeResultFlag_eq]

theorem regsKeptBut_writeResultFlag (x : RegIdx) (v : Byte) (b : Bool) (s : State) :
    RegsKeptBut [x, 15] s (writeResultFlag x v b s) := by
  intro r hr
  obtain ⟨hrx, hrflag⟩ : r ≠ x ∧ r ≠ Config.flagReg := by simpa using hr
  simp [reg_writeResultFlag, hrx, hrflag]

theorem result_writeResultFlag (hx : x ≠ 15) (v : Byte) (b : Bool) (s : State) :
    (writeResultFlag x v b s).reg x = v := by
  have hxflag : x ≠ Config.flagReg := hx
  simp [reg_writeResultFlag, hxflag]

theorem flag_writeResultFlag (x : RegIdx) (v : Byte) (b : Bool) (s : State) :
    (writeResultFlag x v b s).reg 15 = flagByte b :=
  (reg_writeResultFlag x v b s 15).trans (if_pos rfl)

/-! ### The flags -/

theorem flagByte_carryOut (a b : Byte) : flagByte (carryOut a b) = if 255 < a.toNat + b.toNat then 1 else 0 := by
  simp [flagByte, carryOut]

theorem flagByte_borrowFlag_noBorrowIsOne (a b : Byte) :
    flagByte (borrowFlag .noBorrowIsOne a b) = if a.toNat < b.toNat then 0 else 1 := by
  simp only [flagByte, borrowFlag, Bool.not_eq_true', decide_eq_false_iff_not, ite_not]

theorem flagByte_borrowFlag_borrowIsOne (a b : Byte) :
    flagByte (borrowFlag .borrowIsOne a b) = if a.toNat < b.toNat then 1 else 0 := by
  simp [flagByte, borrowFlag]

theorem toNat_flagByte (b : Bool) : (flagByte b).toNat = b.toNat := by
  cases b <;> rfl

theorem toNat_shiftedOutRight (v : Byte) : (shiftedOutRight v).toNat = v.toNat % 2 := by
  rw [shiftedOutRight, ← BitVec.testBit_toNat, Nat.toNat_testBit, Nat.pow_zero, Nat.div_one]

theorem toNat_shiftedOutLeft (v : Byte) : (shiftedOutLeft v).toNat = v.toNat / 128 := by
  have hv := v.isLt
  rw [shiftedOutLeft, ← BitVec.testBit_toNat, Nat.toNat_testBit]
  omega

/-! ### The results -/

/-- The difference mod 256, as a sum that does not go below zero. -/
theorem toNat_sub_eq_add_sub_mod (a b : Byte) : (a - b).toNat = (a.toNat + 256 - b.toNat) % 256 := by
  have hb := b.isLt
  rw [BitVec.toNat_sub]
  omega

theorem toNat_ushiftRight_one (v : Byte) : (v >>> 1).toNat = v.toNat / 2 := by
  rw [BitVec.toNat_ushiftRight, Nat.shiftRight_eq_div_pow, Nat.pow_one]

theorem toNat_shiftLeft_one (v : Byte) : (v <<< 1).toNat = v.toNat * 2 % 256 := by
  rw [BitVec.toNat_shiftLeft, Nat.shiftLeft_eq, Nat.pow_one]

/-- The parameter names the source of a shift (R82, R84). -/
theorem shiftSource_eq_ite (s : State) (x y : RegIdx) :
    shiftSource s x y = if s.params.shiftSource = .y then s.reg y else s.reg x := by
  unfold shiftSource
  cases s.params.shiftSource with
  | x | y => rfl

/-! ### The instructions that write no flag -/

/-- Settles O29: each writes its one register. -/
theorem immediateLoadAndAdd : Obligations.ImmediateLoadAndAdd := by
  intro x nn s
  refine ⟨⟨_, rfl, reg_setReg_self x _ _, regsKeptBut_setReg x _ s, onlyChanges_setReg x _ s⟩,
    ⟨_, rfl, ?_, regsKeptBut_setReg x _ s, onlyChanges_setReg x _ s⟩⟩
  rw [reg_setReg_self, BitVec.toNat_add]

/-- Settles O30: each writes its one register, and the operations of bit vectors go bit by bit. -/
theorem copyAndLogicWriteTheDestination : Obligations.CopyAndLogicWriteTheDestination := by
  intro x y s
  refine ⟨⟨_, rfl, reg_setReg_self x _ _, regsKeptBut_setReg x _ s, onlyChanges_setReg x _ s⟩,
    ⟨_, rfl, fun k => ?_, regsKeptBut_setReg x _ s, onlyChanges_setReg x _ s⟩,
    ⟨_, rfl, fun k => ?_, regsKeptBut_setReg x _ s, onlyChanges_setReg x _ s⟩,
    ⟨_, rfl, fun k => ?_, regsKeptBut_setReg x _ s, onlyChanges_setReg x _ s⟩⟩
  · rw [reg_setReg_self, BitVec.getLsbD_or]
  · rw [reg_setReg_self, BitVec.getLsbD_and]
  · rw [reg_setReg_self, BitVec.getLsbD_xor]

/-- Settles O34: the draw advances the counter alone, and the mask clears the bits that it has 0. -/
theorem rndWritesTheMaskedOracleByte : Obligations.RndWritesTheMaskedOracleByte := by
  intro x nn s
  have hreg : (rndWith s.oracleByte x nn s).reg x = Config.randomByte s.draws &&& nn := reg_setReg_self x _ _
  refine ⟨_, rfl, hreg, fun k hk => ?_, rfl, regsKeptBut_setReg x _ s.drawn, ?_⟩
  · rw [hreg, BitVec.getLsbD_and, hk, Bool.and_false]
  · simp [OnlyChanges, rndWith]

/-! ### The instructions that write a flag -/

/-- Settles O31: the flag is the carry of the two operands as they were. -/
theorem addSetsSumAndCarry : Obligations.AddSetsSumAndCarry := by
  intro x y s
  refine ⟨_, rfl, fun hx => ?_, ?_, regsKeptBut_writeResultFlag x _ _ s, onlyChanges_writeResultFlag x _ _ s⟩
  · rw [result_writeResultFlag hx, BitVec.toNat_add]
  · rw [flag_writeResultFlag, flagByte_carryOut]

/-- The state `t` is `s` with the difference `a - b` in register `x` and its borrow in the flag, as SUB and SUBN
leave it (R72, R81, R83). -/
def WritesDifference (x : RegIdx) (a b : Byte) (s t : State) : Prop :=
  (x ≠ 15 → (t.reg x).toNat = (a.toNat + 256 - b.toNat) % 256) ∧
  (s.params.borrowPolarity = .noBorrowIsOne → t.reg 15 = if a.toNat < b.toNat then 0 else 1) ∧
  (s.params.borrowPolarity = .borrowIsOne → t.reg 15 = if a.toNat < b.toNat then 1 else 0) ∧
  RegsKeptBut [x, 15] s t ∧ OnlyChanges [.regs] s t

theorem writesDifference_writeResultFlag (x : RegIdx) (a b : Byte) (s : State) :
    WritesDifference x a b s (writeResultFlag x (a - b) (borrowFlag s.params.borrowPolarity a b) s) := by
  refine ⟨fun hx => ?_, fun hpolarity => ?_, fun hpolarity => ?_, regsKeptBut_writeResultFlag x _ _ s,
    onlyChanges_writeResultFlag x _ _ s⟩
  · rw [result_writeResultFlag hx, toNat_sub_eq_add_sub_mod]
  · rw [flag_writeResultFlag, hpolarity, flagByte_borrowFlag_noBorrowIsOne]
  · rw [flag_writeResultFlag, hpolarity, flagByte_borrowFlag_borrowIsOne]

/-- Settles O32: the two subtracts differ in which register is the minuend. -/
theorem subtractsSetDifferenceAndBorrow : Obligations.SubtractsSetDifferenceAndBorrow :=
  fun x y s => ⟨⟨_, rfl, writesDifference_writeResultFlag x (s.reg x) (s.reg y) s⟩,
    ⟨_, rfl, writesDifference_writeResultFlag x (s.reg y) (s.reg x) s⟩⟩

/-- Settles O33: result and flag are both of the source register. -/
theorem shiftsMoveTheSourceByOne : Obligations.ShiftsMoveTheSourceByOne := by
  intro x y s src hsrc
  have hsource : shiftSource s x y = src := (shiftSource_eq_ite s x y).trans hsrc.symm
  refine ⟨⟨_, rfl, fun hx => ?_, ?_, regsKeptBut_writeResultFlag x _ _ s, onlyChanges_writeResultFlag x _ _ s⟩,
    ⟨_, rfl, fun hx => ?_, ?_, regsKeptBut_writeResultFlag x _ _ s, onlyChanges_writeResultFlag x _ _ s⟩⟩
  · rw [result_writeResultFlag hx, hsource, toNat_ushiftRight_one]
  · rw [flag_writeResultFlag, hsource, toNat_flagByte, toNat_shiftedOutRight]
  · rw [result_writeResultFlag hx, hsource, toNat_shiftLeft_one]
  · rw [flag_writeResultFlag, hsource, toNat_flagByte, toNat_shiftedOutLeft]

end Sys2Proof.Machine
end

section
/-! SUPPORT. The address register, LD B and the two block transfers: when they complete, and when they fault (44_address_memory.md R86 to R92; D7, D12, D13, D28). -/

namespace Sys2Proof.Machine

variable {s t : State} {x r : RegIdx}

/-! ### The address register -/

/-- The reduction of `I` (R15, D28). -/
theorem toNat_I_setI (v : Nat) (s : State) : (s.setI v).I.toNat = v % 65536 := by
  rw [State.I_setI, BitVec.toNat_ofNat]

theorem onlyChanges_setI (v : Nat) (s : State) : OnlyChanges [.addr] s (s.setI v) := by
  simp [OnlyChanges]

/-- Settles O35: each writes `I` once, and neither a 12-bit address nor five times a byte is reduced. -/
theorem addressRegisterInstructions : Obligations.AddressRegisterInstructions := by
  intro nnn x dc s
  have hnnn := nnn.isLt
  have hx := (s.reg x).isLt
  refine ⟨⟨_, rfl, ?_, onlyChanges_setI _ s⟩, ⟨_, rfl, toNat_I_setI _ s, onlyChanges_setI _ s⟩,
    ⟨_, rfl, ?_, onlyChanges_setI _ s⟩⟩
  · rw [toNat_I_setI, addrOperand]
    omega
  · rw [toNat_I_setI, Config.fontBase, Config.fontGlyphBytes]
    omega

/-! ### Blocks of bytes and registers -/

/-- A state whose memory is a block write reads as before outside the block (R34). -/
theorem bytesKeptOutside_writeBytes {base : Nat} {vs : List Byte} (ht : t.mem = s.mem.writeBytes base vs) :
    BytesKeptOutside base vs.length s t := by
  intro a ha
  rw [ht]
  exact Memory.read_writeBytes_outside vs base s.mem ha

/-- A block of registers that was written is read back register by register (R91). -/
theorem read_writeBytes_block (regs : RegFile) {m : Memory} (hm : m.wf = true) {base : Nat}
    (hfit : base + x.val < Config.memSize) (hr : r ≤ x) :
    (m.writeBytes base (regs.block (x.val + 1))).read (base + r.val) = regs[r] := by
  have hlen : (regs.block (x.val + 1)).length = x.val + 1 := RegFile.length_block _ x.isLt
  have hk : r.val < (regs.block (x.val + 1)).length := by
    rw [hlen]
    exact Nat.lt_succ_of_le hr
  rw [Memory.read_writeBytes_inside _ base hm (by rw [hlen]; exact hfit) _ hk]
  exact RegFile.getElem_block _ x.isLt hk

/-- A register of the block loads the byte at its own distance from the base, and the others are kept (R92). -/
theorem getElem_load_readBytes (regs : RegFile) (m : Memory) (base len : Nat) (r : RegIdx) :
    (regs.load 0 (m.readBytes base len))[r] = if r.val < len then m.read (base + r.val) else regs[r] := by
  rw [Fin.getElem_fin, RegFile.getElem_load]
  simp [Memory.getElem_readBytes]

/-- The range check fails when the last address of the block lies outside memory (R30). -/
theorem firstOutside_succ_eq_max {base k : Nat} (h : 4096 ≤ base + k) :
    firstOutside base (k + 1) = some (max base 4096) :=
  firstOutside_eq_max (Nat.succ_ne_zero k) (Nat.lt_succ_of_le h)

/-! ### LD B -/

theorem execLdBVx_eq_raise (x : RegIdx) (dc : Nibble) (h : 4096 ≤ s.I.toNat + 2) :
    execLdBVx x dc s = raise (.ldBVx x dc) (.undefinedAccess (.memory (max s.I.toNat 4096))) s := by
  simp only [execLdBVx, firstOutside_succ_eq_max h]

theorem onlyChanges_setMem (m : Memory) (s : State) : OnlyChanges [.mem] s (s.setMem m) := by
  simp [OnlyChanges]

/-- Settles O36: the three digits are the bytes of a block write that the range check lets pass. -/
theorem bcdStoresThreeDigits : Obligations.BcdStoresThreeDigits := by
  intro x dc s
  refine ⟨fun hfit => ?_, fun hout => haltsWith_of_eq_raise (execLdBVx_eq_raise x dc hout)⟩
  refine ⟨_, execLdBVx_eq_next x dc hfit, fun hm => ?_,
    bytesKeptOutside_writeBytes (vs := bcdDigits (s.reg x)) rfl, onlyChanges_setMem _ s⟩
  have hread := Memory.read_writeBytes_inside (bcdDigits (s.reg x)) s.I.toNat hm hfit
  obtain ⟨hundreds, tens, ones⟩ := toNat_getElem_bcdDigits (s.reg x)
  rw [← hundreds, ← tens, ← ones]
  exact ⟨congrArg _ (hread 0 (by simp)), congrArg _ (hread 1 (by simp)), congrArg _ (hread 2 (by simp))⟩

/-! ### LD [I], Vx -/

theorem execLdMemVx_eq_raise (x : RegIdx) (h : 4096 ≤ s.I.toNat + x.val) :
    execLdMemVx x s = raise (.ldMemVx x) (.undefinedAccess (.memory (max s.I.toNat 4096))) s := by
  simp only [execLdMemVx, firstOutside_succ_eq_max h]

theorem onlyChanges_setMem_setI (m : Memory) (v : Nat) (s : State) :
    OnlyChanges [.mem, .addr] s ((s.setMem m).setI v) := by
  simp [OnlyChanges]

/-- Settles O37: the registers are the bytes of a block write that the range check lets pass. -/
theorem blockStoreWritesRegisters : Obligations.BlockStoreWritesRegisters := by
  intro x s
  refine ⟨fun hfit => ?_, fun hout => haltsWith_of_eq_raise (execLdMemVx_eq_raise x hout)⟩
  have hlen : (s.regs.block (x.val + 1)).length = x.val + 1 := RegFile.length_block _ x.isLt
  refine ⟨_, execLdMemVx_eq_next x hfit, fun hm r hr => read_writeBytes_block s.regs hm hfit hr,
    toNat_I_setI _ _, ?_, onlyChanges_setMem_setI _ _ s⟩
  rw [← hlen]
  exact bytesKeptOutside_writeBytes (by simp [hlen])

/-! ### LD Vx, [I] -/

/-- The registers of LD Vx, [I] are loaded when all their addresses lie in memory (R92). -/
theorem execLdVxMem_eq_next (x : RegIdx) (h : s.I.toNat + x.val < Config.memSize) :
    execLdVxMem x s =
      .next ((s.setRegs (s.regs.load 0 (s.mem.readBytes s.I.toNat (x.val + 1)))).setI (s.I.toNat + x.val + 1)) := by
  have hin : firstOutside s.I.toNat (x.val + 1) = none := firstOutside_eq_none.2 (.inr h)
  simp only [execLdVxMem, hin]

theorem execLdVxMem_eq_raise (x : RegIdx) (h : 4096 ≤ s.I.toNat + x.val) :
    execLdVxMem x s = raise (.ldVxMem x) (.undefinedAccess (.memory (max s.I.toNat 4096))) s := by
  simp only [execLdVxMem, firstOutside_succ_eq_max h]

theorem onlyChanges_setRegs_setI (regs : RegFile) (v : Nat) (s : State) :
    OnlyChanges [.regs, .addr] s ((s.setRegs regs).setI v) := by
  simp [OnlyChanges]

/-- Settles O38: the block is X + 1 bytes long, so register X is the last one loaded. -/
theorem blockLoadReadsRegisters : Obligations.BlockLoadReadsRegisters := by
  intro x s
  refine ⟨fun hfit => ?_, fun hout => haltsWith_of_eq_raise (execLdVxMem_eq_raise x hout)⟩
  have hload (r : RegIdx) := getElem_load_readBytes s.regs s.mem s.I.toNat (x.val + 1) r
  exact ⟨_, execLdVxMem_eq_next x hfit, fun r hr => (hload r).trans (if_pos (Nat.lt_succ_of_le hr)),
    fun r hr => (hload r).trans (if_neg (Nat.not_lt.2 hr)), toNat_I_setI _ _, onlyChanges_setRegs_setI _ _ s⟩

/-! ### A block store and then a block load -/

/-- Loading the registers of a block from where they were stored changes none (R91, R92). -/
theorem load_readBytes_writeBytes_block (regs : RegFile) {m : Memory} (hm : m.wf = true) {base : Nat}
    (hfit : base + x.val < Config.memSize) :
    regs.load 0 ((m.writeBytes base (regs.block (x.val + 1))).readBytes base (x.val + 1)) = regs := by
  apply Vector.ext
  intro k hk
  have hload := getElem_load_readBytes regs (m.writeBytes base (regs.block (x.val + 1))) base (x.val + 1) ⟨k, hk⟩
  refine hload.trans ?_
  split
  · next hkx => exact read_writeBytes_block regs hm hfit (r := ⟨k, hk⟩) (Nat.le_of_lt_succ hkx)
  · rfl

/-- Settles O39: with `I` set back the load reads the block that the store wrote, so it writes every register with its
own value, and `I` ends where the store left it. -/
theorem blockStoreThenLoadIsIdentity : Obligations.BlockStoreThenLoadIsIdentity := by
  intro x s hm hfit
  have hload := execLdVxMem_eq_next (s := s.setMem (s.mem.writeBytes s.I.toNat (s.regs.block (x.val + 1)))) x hfit
  have hregs := load_readBytes_writeBytes_block s.regs hm hfit
  refine ⟨_, execLdMemVx_eq_next x hfit, hload.trans ?_⟩
  exact congrArg (fun regs => Host.Outcome.next (((s.setMem _).setRegs regs).setI _)) hregs

end Sys2Proof.Machine
end

section
/-! SUPPORT. The timers, the key skips, the wait for a key and the delivery that ends it (45_timers_keypad.md R93 to R98, 60_exceptions.md R114; D11, D13, D15). -/

namespace Sys2Proof.Machine

variable {s : State} {x : RegIdx}

/-! ### The wait for a key and its delivery -/

theorem onlyChanges_setWait (w : WaitState) (s : State) : OnlyChanges [.wait] s (s.setWait w) := by
  simp [OnlyChanges]

theorem onlyChanges_setReg_setWait (x : RegIdx) (v : Byte) (w : WaitState) (s : State) :
    OnlyChanges [.regs, .wait] s ((s.setReg x v).setWait w) := by
  simp [OnlyChanges]

/-- A key number fits in a byte (R114). -/
theorem toNat_ofNat_key (k : Fin 16) : (BitVec.ofNat 8 k.val).toNat = k.val := by
  have hk := k.isLt
  rw [BitVec.toNat_ofNat]
  omega

theorem hostAct_deliverKey (k : Fin 16) (s : State) : hostAct (.deliverKey k.val) s = .next (deliverKey k s) :=
  dif_pos k.isLt

/-- The delivery to a running machine that waits (R114). -/
theorem deliverKey_eq_of_awaiting (hrun : s.run = .running) (hwait : s.wait = .awaiting x) (k : Fin 16) :
    deliverKey k s = (s.setReg x (BitVec.ofNat 8 k.val)).setWait .none := by
  simp only [deliverKey, hrun, hwait]

/-- A delivery overwrites the wait state, so that nothing is left of the wait but the register written. -/
theorem deliverKey_setWait_awaiting (hrun : s.run = .running) (x : RegIdx) (k : Fin 16) :
    deliverKey k (s.setWait (.awaiting x)) = (s.setReg x (BitVec.ofNat 8 k.val)).setWait .none :=
  deliverKey_eq_of_awaiting (s := s.setWait (.awaiting x)) hrun rfl k

/-- Settles O43: the wait state makes the machine rest, and the delivery overwrites that same wait state. -/
theorem waitForKeySuspendsUntilDelivery : Obligations.WaitForKeySuspendsUntilDelivery := by
  intro x dc s
  refine ⟨s.setWait (.awaiting x), rfl, rfl, onlyChanges_setWait _ s, fun hrun => ⟨?_, ?_, fun k => ?_⟩⟩
  · exact status_eq_awaitingKey hrun rfl
  · exact step_eq_self (.inr nofun)
  · refine ⟨(s.setReg x (BitVec.ofNat 8 k.val)).setWait .none, ?_, ?_, rfl, regsKeptBut_setReg x _ s,
      onlyChanges_setReg_setWait x _ _ s⟩
    · rw [hostAct_deliverKey, deliverKey_setWait_awaiting hrun]
    · rw [State.reg_setWait, reg_setReg_self, toNat_ofNat_key]

/-! ### The timers -/

theorem onlyChanges_setDT (v : Byte) (s : State) : OnlyChanges [.DT] s (s.setDT v) := by
  simp [OnlyChanges]

theorem onlyChanges_setST (v : Byte) (s : State) : OnlyChanges [.ST] s (s.setST v) := by
  simp [OnlyChanges]

/-- Settles O41: each copies a byte between the register and a timer. -/
theorem timerInstructions : Obligations.TimerInstructions :=
  fun x _ s => ⟨⟨_, rfl, reg_setReg_self x _ s, regsKeptBut_setReg x _ s, onlyChanges_setReg x _ s⟩,
    ⟨_, rfl, rfl, onlyChanges_setDT _ s⟩, ⟨_, rfl, rfl, onlyChanges_setST _ s⟩⟩

/-! ### The key skips -/

theorem pc_skipIf_not (c : Bool) (s : State) : (skipIf (!c) s).pc = s.pc + if c = true then 0 else 2 := by
  simp only [pc_skipIf, Bool.not_eq_true', ← Bool.not_eq_true, ite_not]

variable {k : Fin 16}

theorem execSkp_eq_next (dc : Nibble) (h : (s.reg x).toNat = k.val) :
    execSkp x dc s = .next (skipIf (s.key k) s) := by
  simp only [execSkp, keyOperand_eq_some.2 h]

theorem execSknp_eq_next (dc : Nibble) (h : (s.reg x).toNat = k.val) :
    execSknp x dc s = .next (skipIf (!s.key k) s) := by
  simp only [execSknp, keyOperand_eq_some.2 h]

/-- A number above 15 names no key (D11). -/
theorem execSkp_eq_raise (dc : Nibble) (h : 15 < (s.reg x).toNat) :
    execSkp x dc s = raise (.skp x dc) (.undefinedAccess (.key (s.reg x).toNat)) s := by
  simp only [execSkp, keyOperand_eq_none.2 h]

/-- A number above 15 names no key (D11). -/
theorem execSknp_eq_raise (dc : Nibble) (h : 15 < (s.reg x).toNat) :
    execSknp x dc s = raise (.sknp x dc) (.undefinedAccess (.key (s.reg x).toNat)) s := by
  simp only [execSknp, keyOperand_eq_none.2 h]

/-- Settles O42: whether the register's value is a key number decides between the skip and the fault. -/
theorem keySkipsReadTheNamedKey : Obligations.KeySkipsReadTheNamedKey := by
  intro x dc s
  refine ⟨fun k hk => ⟨?_, ?_⟩, fun hout => ⟨?_, ?_⟩⟩
  · exact ⟨_, execSkp_eq_next dc hk, pc_skipIf _ s, onlyChanges_skipIf _ s⟩
  · exact ⟨_, execSknp_eq_next dc hk, pc_skipIf_not _ s, onlyChanges_skipIf _ s⟩
  · exact haltsWith_of_eq_raise (execSkp_eq_raise dc hout)
  · exact haltsWith_of_eq_raise (execSknp_eq_raise dc hout)

end Sys2Proof.Machine
end

section
/-! SUPPORT. What the tick, the snapshot and the delivery do to the state (60_exceptions.md R112 to R114; D15, D29 to D31). -/

namespace Sys2Proof.Machine

/-- A timer counts down and stops at zero (R112). -/
theorem toNat_timer_tick (v : Byte) : (if v = 0 then 0 else v - 1).toNat = v.toNat - 1 := by
  split
  · next hzero => simp [hzero]
  · next hpos => bv_omega

/-- Settles O44: each timer counts down by itself. -/
theorem tickLowersTheTimers : Obligations.TickLowersTheTimers :=
  fun s => ⟨tick s, rfl, toNat_timer_tick s.DT, toNat_timer_tick s.ST, onlyChanges_tick s⟩

/-- Settles O45: the snapshot becomes the keypad, which is all that is written. -/
theorem snapshotReplacesTheKeys : Obligations.SnapshotReplacesTheKeys :=
  fun ks s => ⟨s.setKeys ks, rfl, fun _ => rfl, onlyChanges_setKeys ks s⟩

variable {s : State}

/-- A machine that is halted or waits for nothing ignores a delivery (D29). -/
theorem deliverKey_eq_self (h : s.run ≠ .running ∨ s.wait = .none) (k : Fin 16) : deliverKey k s = s := by
  unfold deliverKey
  split
  · next hrun hwait => simp [hrun, hwait] at h
  · rfl
  · rfl

theorem hostAct_deliverKey_eq_next {k : Nat} (h : k < 16) (s : State) :
    hostAct (.deliverKey k) s = .next (deliverKey ⟨k, h⟩ s) :=
  dif_pos h

/-- A number above 15 is no key (D15; log 9). -/
theorem hostAct_deliverKey_eq_refused {k : Nat} (h : 15 < k) (s : State) :
    hostAct (.deliverKey k) s = .refused (.illegalKeyDelivery k) :=
  dif_neg (Nat.not_lt.2 h)

/-- Settles O46: a key's delivery writes the waiting register and ends the wait, or finds none and writes nothing. -/
theorem deliveryCompletesTheWait : Obligations.DeliveryCompletesTheWait := by
  intro k s
  have hdeliver (hk : k ≤ 15) : hostAct (.deliverKey k) s = .next (deliverKey ⟨k, Nat.lt_succ_of_le hk⟩ s) :=
    hostAct_deliverKey_eq_next _ s
  refine ⟨fun hk hrun x hwait => ?_, fun hk hidle => ?_, fun hk => ⟨_, hostAct_deliverKey_eq_refused hk s⟩⟩
  · rw [hdeliver hk, deliverKey_eq_of_awaiting hrun hwait]
    refine ⟨_, rfl, ?_, rfl, regsKeptBut_setReg x _ s, onlyChanges_setReg_setWait x _ _ s⟩
    rw [State.reg_setWait, reg_setReg_self, toNat_ofNat_key]
  · rw [hdeliver hk, deliverKey_eq_self hidle]

end Sys2Proof.Machine
end

section
/-! SUPPORT. Sequences of host actions: what each action of a sequence keeps, the sequence keeps, and every action keeps the invariant (60_exceptions.md R111, R117; D33). -/

namespace Sys2Proof.Machine

variable {s : State}

/-! ### Sequences -/

/-- A sequence answers a next state when its first action does and the rest goes on from there (R117). -/
theorem runActions_cons_eq_next {a : HostAction} {rest : List HostAction} {u : State} :
    runActions (a :: rest) s = .next u ↔ ∃ t, hostAct a s = .next t ∧ runActions rest t = .next u := by
  cases hact : hostAct a s <;> simp [runActions, hact]

/-- A property that every action of a sequence keeps holds wherever the sequence leads. -/
theorem runActions_keeps {P : State → Prop} {as : List HostAction}
    (hkeep : ∀ a ∈ as, ∀ s t, P s → hostAct a s = .next t → P t) :
    ∀ s t, P s → runActions as s = .next t → P t := by
  induction as with
  | nil =>
    intro s t hs h
    cases h
    exact hs
  | cons a rest ih =>
    obtain ⟨hfirst, hrest⟩ := List.forall_mem_cons.1 hkeep
    intro s u hs h
    obtain ⟨t, hact, hrun⟩ := runActions_cons_eq_next.1 h
    exact ih hrest t u (hfirst s t hs hact) hrun

/-! ### The invariant -/

/-- Wherever the batch ends, at its count or at a halt, steps led there (R56). -/
theorem answersInv_stepCycles (n : Nat) (hs : Inv s) : AnswersInv (stepCycles n s) := by
  induction n generalizing s with
  | zero => exact hs
  | succ n ih =>
    obtain ⟨t, ht⟩ := step_eq_next s
    have hinv : Inv t := stepKeepsInv s t hs ht
    simp only [stepCycles, ht]
    split
    · exact hinv
    · exact ih hinv

/-- A delivery writes a register and the wait state at most, and the invariant speaks of neither (R114). -/
theorem Inv.deliverKey (hs : Inv s) (k : Fin 16) : Inv (deliverKey k s) := by
  unfold Machine.deliverKey
  split
  · exact hs
  · exact hs
  · exact hs

/-- The tick and the snapshot write nothing the invariant speaks of, and a reset forgets the state it starts from. -/
theorem answersInv_hostAct (hs : Inv s) (a : HostAction) : AnswersInv (hostAct a s) := by
  cases a with
  | reset image => exact inv_resetState s.params image
  | step => exact answersInv_step hs
  | stepCycles n => exact answersInv_stepCycles n hs
  | tick => exact hs
  | setKeys ks => exact hs
  | deliverKey k =>
    obtain hkey | hnone := Nat.lt_or_ge k 16
    · rw [hostAct_deliverKey_eq_next hkey]
      exact hs.deliverKey _
    · rw [hostAct_deliverKey_eq_refused hnone]
      trivial

/-- Settles O58, by induction on the sequence: every action keeps the invariant. -/
theorem hostActionsKeepInv : Obligations.HostActionsKeepInv :=
  fun _ => runActions_keeps fun a _ _ _ hs h => (answersInv_hostAct hs a).inv_of_eq h

end Sys2Proof.Machine
end

section
/-! SUPPORT. The faults each instruction may raise, and that it raises no other (60_exceptions.md R99 to R104; D7, D8, D11). -/

namespace Sys2Proof.Machine

variable {s : State}

/-! ### The list of R99 -/

/-- The handler of `i` may raise the fault in a state `s`: the faults that R99 lists, each with what its value is then
known to be. -/
inductive ListedFault (s : State) : Instr → Fault → Prop
  | jp {nnn : Addr} (h : nnn.toNat < 0x200) : ListedFault s (.jp nnn) (.invalidJumpTarget nnn)
  | call {nnn : Addr} (h : nnn.toNat < 0x200) : ListedFault s (.call nnn) (.invalidJumpTarget nnn)
  | callFull (nnn : Addr) (sp : Nat) : ListedFault s (.call nnn) (.stackOverflow sp)
  | retEmpty (dc : BitVec 8) (sp : Nat) : ListedFault s (.ret dc) (.stackUnderflow sp)
  | drwMemory (x y : RegIdx) (n : Fin 16) {a : Nat} (h : 4096 ≤ a) :
      ListedFault s (.drw x y n) (.undefinedAccess (.memory a))
  | ldBVx (x : RegIdx) (dc : Nibble) {a : Nat} (h : 4096 ≤ a) :
      ListedFault s (.ldBVx x dc) (.undefinedAccess (.memory a))
  | ldMemVx (x : RegIdx) {a : Nat} (h : 4096 ≤ a) : ListedFault s (.ldMemVx x) (.undefinedAccess (.memory a))
  | ldVxMem (x : RegIdx) {a : Nat} (h : 4096 ≤ a) : ListedFault s (.ldVxMem x) (.undefinedAccess (.memory a))
  | drwDisplay (x y : RegIdx) (n : Fin 16) {px py : Nat} (hmode : s.params.drawOffscreen = .fault)
      (h : 64 ≤ px ∨ 32 ≤ py) : ListedFault s (.drw x y n) (.undefinedAccess (.display px py))
  | skp (x : RegIdx) (dc : Nibble) {k : Nat} (h : 15 < k) : ListedFault s (.skp x dc) (.undefinedAccess (.key k))
  | sknp (x : RegIdx) (dc : Nibble) {k : Nat} (h : 15 < k) : ListedFault s (.sknp x dc) (.undefinedAccess (.key k))

/-- The handler of `i` raises a listed fault, or completes with the run state kept. -/
def RaisesListedOrCompletes (i : Instr) (s : State) (r : Result) : Prop :=
  (∃ f, ListedFault s i f ∧ r = raise i f s) ∨ ∃ t, r = .next t ∧ t.run = s.run

/-! ### What each handler raises -/

theorem raisesListedOrCompletes_execRet (dc : BitVec 8) (s : State) :
    RaisesListedOrCompletes (.ret dc) s (execRet dc s) := by
  cases hstack : s.stack with
  | nil => exact .inl ⟨_, .retEmpty dc _, execRet_eq_raise dc hstack⟩
  | cons a rest => exact .inr ⟨_, execRet_eq_next dc hstack, rfl⟩

theorem raisesListedOrCompletes_execJp (nnn : Addr) (s : State) :
    RaisesListedOrCompletes (.jp nnn) s (execJp nnn s) := by
  obtain hlow | hvalid := Nat.lt_or_ge nnn.toNat 0x200
  · exact .inl ⟨_, .jp hlow, execJp_eq_raise hlow s⟩
  · exact .inr ⟨_, execJp_eq_next hvalid s, rfl⟩

theorem raisesListedOrCompletes_execCall (nnn : Addr) (s : State) :
    RaisesListedOrCompletes (.call nnn) s (execCall nnn s) := by
  obtain hlow | hvalid := Nat.lt_or_ge nnn.toNat 0x200
  · exact .inl ⟨_, .call hlow, execCall_eq_raise_low hlow s⟩
  · obtain hroom | hfull := Nat.lt_or_ge s.sp 12
    · exact .inr ⟨_, execCall_eq_next hvalid hroom, rfl⟩
    · exact .inl ⟨_, .callFull nnn _, execCall_eq_raise_full hvalid hfull⟩

/-- The off-screen rule rejects a coordinate under FAULT alone, and only one off the grid (R58, D8). -/
theorem offGrid_of_placeTargets_eq_error {mode : OffscreenMode} {l : List (Nat × Nat)} {c : Nat × Nat}
    (h : placeTargets mode l = .error c) : mode = .fault ∧ (64 ≤ c.1 ∨ 32 ≤ c.2) := by
  cases mode with
  | fault =>
    cases hfind : l.find? (fun c => (onGrid c).isNone) with
    | none => simp [placeTargets, hfind] at h
    | some c' =>
      cases (placeTargets_eq_error hfind).symm.trans h
      have hoff : onGrid c = none := by simpa using List.find?_some hfind
      exact ⟨rfl, onGrid_eq_none.1 hoff⟩
  | clip => cases h
  | wrap => cases h

theorem raisesListedOrCompletes_execDrw (x y : RegIdx) (n : Fin 16) (s : State) :
    RaisesListedOrCompletes (.drw x y n) s (execDrw x y n s) := by
  unfold execDrw
  split
  · next a ha =>
    obtain ⟨hout, -⟩ := firstOutside_eq_some ha
    exact .inl ⟨_, .drwMemory x y n hout, rfl⟩
  · split
    · next c hc =>
      obtain ⟨hmode, hoff⟩ := offGrid_of_placeTargets_eq_error hc
      exact .inl ⟨_, .drwDisplay x y n hmode hoff, rfl⟩
    · exact .inr ⟨_, rfl, rfl⟩

theorem raisesListedOrCompletes_execLdBVx (x : RegIdx) (dc : Nibble) (s : State) :
    RaisesListedOrCompletes (.ldBVx x dc) s (execLdBVx x dc s) := by
  obtain hfit | hout := Nat.lt_or_ge (s.I.toNat + 2) 4096
  · exact .inr ⟨_, execLdBVx_eq_next x dc hfit, rfl⟩
  · exact .inl ⟨_, .ldBVx x dc (le_max_right ..), execLdBVx_eq_raise x dc hout⟩

theorem raisesListedOrCompletes_execLdMemVx (x : RegIdx) (s : State) :
    RaisesListedOrCompletes (.ldMemVx x) s (execLdMemVx x s) := by
  obtain hfit | hout := Nat.lt_or_ge (s.I.toNat + x.val) 4096
  · exact .inr ⟨_, execLdMemVx_eq_next x hfit, rfl⟩
  · exact .inl ⟨_, .ldMemVx x (le_max_right ..), execLdMemVx_eq_raise x hout⟩

theorem raisesListedOrCompletes_execLdVxMem (x : RegIdx) (s : State) :
    RaisesListedOrCompletes (.ldVxMem x) s (execLdVxMem x s) := by
  obtain hfit | hout := Nat.lt_or_ge (s.I.toNat + x.val) 4096
  · exact .inr ⟨_, execLdVxMem_eq_next x hfit, rfl⟩
  · exact .inl ⟨_, .ldVxMem x (le_max_right ..), execLdVxMem_eq_raise x hout⟩

theorem raisesListedOrCompletes_execSkp (x : RegIdx) (dc : Nibble) (s : State) :
    RaisesListedOrCompletes (.skp x dc) s (execSkp x dc s) := by
  obtain hkey | hnone := Nat.lt_or_ge (s.reg x).toNat 16
  · exact .inr ⟨_, execSkp_eq_next (k := ⟨_, hkey⟩) dc rfl, run_skipIf s _⟩
  · exact .inl ⟨_, .skp x dc hnone, execSkp_eq_raise dc hnone⟩

theorem raisesListedOrCompletes_execSknp (x : RegIdx) (dc : Nibble) (s : State) :
    RaisesListedOrCompletes (.sknp x dc) s (execSknp x dc s) := by
  obtain hkey | hnone := Nat.lt_or_ge (s.reg x).toNat 16
  · exact .inr ⟨_, execSknp_eq_next (k := ⟨_, hkey⟩) dc rfl, run_skipIf s _⟩
  · exact .inl ⟨_, .sknp x dc hnone, execSknp_eq_raise dc hnone⟩

/-- The instructions outside the list of R99 check nothing and complete. -/
theorem exec_raisesListedOrCompletes (i : Instr) (s : State) : RaisesListedOrCompletes i s (exec i s) := by
  have hskip (i : Instr) (c : Bool) : RaisesListedOrCompletes i s (.next (skipIf c s)) :=
    .inr ⟨_, rfl, run_skipIf s c⟩
  cases i with
  | ret dc => exact raisesListedOrCompletes_execRet dc s
  | jp nnn => exact raisesListedOrCompletes_execJp nnn s
  | call nnn => exact raisesListedOrCompletes_execCall nnn s
  | seImm x nn => exact hskip _ _
  | sneImm x nn => exact hskip _ _
  | seReg x y dc => exact hskip _ _
  | sneReg x y dc => exact hskip _ _
  | drw x y n => exact raisesListedOrCompletes_execDrw x y n s
  | skp x dc => exact raisesListedOrCompletes_execSkp x dc s
  | sknp x dc => exact raisesListedOrCompletes_execSknp x dc s
  | ldBVx x dc => exact raisesListedOrCompletes_execLdBVx x dc s
  | ldMemVx x => exact raisesListedOrCompletes_execLdMemVx x s
  | ldVxMem x => exact raisesListedOrCompletes_execLdVxMem x s
  | _ => exact .inr ⟨_, rfl, rfl⟩

/-- An instruction that takes a running machine to a halted state has raised a listed fault, and the record holds it. -/
theorem listedFault_of_exec_halts {i : Instr} {t : State} {f : FaultRecord} (hrun : s.run = .running)
    (h : exec i s = .next t) (hhalt : t.run = .halted f) : ListedFault s i f.fault := by
  obtain ⟨g, hlisted, hraise⟩ | ⟨u, hnext, hkept⟩ := exec_raisesListedOrCompletes i s
  · cases h.symm.trans (hraise.trans (raise_eq i g s))
    cases hhalt
    exact hlisted
  · cases h.symm.trans hnext
    simp [hkept, hrun] at hhalt

/-- Settles O14: the fault is a listed one, and each listed fault meets its kind's clause. -/
theorem faultKindsComeFromListedInstructions : Obligations.FaultKindsComeFromListedInstructions := by
  intro i s t f hrun h hhalt
  have hlisted : ListedFault s i f.fault := listedFault_of_exec_halts hrun h hhalt
  generalize f.fault = g at hlisted ⊢
  cases hlisted with
  | jp hlow => exact ⟨.inl rfl, hlow⟩
  | call hlow => exact ⟨.inr rfl, hlow⟩
  | callFull nnn => exact ⟨nnn, rfl⟩
  | retEmpty dc => exact ⟨dc, rfl⟩
  | drwMemory x y n hout => exact ⟨hout, .inl ⟨x, y, n, rfl⟩⟩
  | ldBVx x dc hout => exact ⟨hout, .inr (.inl ⟨x, dc, rfl⟩)⟩
  | ldMemVx x hout => exact ⟨hout, .inr (.inr (.inl ⟨x, rfl⟩))⟩
  | ldVxMem x hout => exact ⟨hout, .inr (.inr (.inr ⟨x, rfl⟩))⟩
  | drwDisplay x y n hmode hoff => exact ⟨hoff, hmode, x, y, n, rfl⟩
  | skp x dc hout => exact ⟨hout, .inl ⟨x, dc, rfl⟩⟩
  | sknp x dc hout => exact ⟨hout, .inr ⟨x, dc, rfl⟩⟩

end Sys2Proof.Machine
end

section
/-! SUPPORT. What the font and image loads leave in memory, and the state after a reset (70_reset_and_hazards.md R122 to R124). -/

namespace Sys2Proof.Machine

variable {s : State} {m : Memory} {font : Vector Byte 80} {image : List Byte} {a k : Nat}

/-! ### The font load -/

/-- The font occupies 0x000 to 0x04F (R123). -/
theorem read_loadFont_inside (hm : m.wf = true) (ha : a < 80) : (loadFont font m).read a = font[a] := by
  have hread := Memory.read_writeBytes_inside font.toList Config.fontBase hm (by simp [Config.memSize]) a (by simpa)
  simpa [loadFont, Config.fontBase] using hread

theorem read_loadFont_outside (font : Vector Byte 80) (m : Memory) (ha : 80 ≤ a) :
    (loadFont font m).read a = m.read a :=
  Memory.read_writeBytes_outside font.toList Config.fontBase m (by simp [ha])

/-- Past the font, memory that lists nothing reads as zero. -/
theorem unlistedByte_eq_zero (ha : 80 ≤ a) : unlistedByte a = 0 := by
  have hnone : Config.fontBytes[a]? = none := List.getElem?_eq_none ha
  rw [unlistedByte, hnone, Option.getD_none]

/-- Within the font, memory that lists nothing reads as the default font (log 5). -/
theorem unlistedByte_eq_font (ha : a < 80) : unlistedByte a = Config.font[a] := by
  have hsome : Config.fontBytes[a]? = some Config.font[a] := List.getElem?_eq_getElem ha
  rw [unlistedByte, hsome, Option.getD_some]

/-- The default font writes what unlisted memory reads as already, so no cell is listed. -/
theorem loadFont_font_nil : loadFont Config.font [] = [] := by
  refine Memory.eq_of_read_eq (lo := 0) (lo' := 0) (wf_loadFont Config.font rfl) rfl fun a => ?_
  obtain hin | hout := Nat.lt_or_ge a 80
  · rw [read_loadFont_inside rfl hin]
    exact (unlistedByte_eq_font hin).symm
  · exact read_loadFont_outside Config.font [] hout

/-! ### The image load -/

theorem read_loadImage_below (image : List Byte) (m : Memory) (ha : a < 0x200) :
    (loadImage image m).read a = m.read a :=
  Memory.read_writeBytes_outside _ Config.programBase m (.inl ha)

/-- The first 3583 bytes of the image are loaded from 0x200 on (R124). -/
theorem read_loadImage_inside (hm : m.wf = true) (hk : k < image.length) (hmax : k < 3583) :
    (loadImage image m).read (0x200 + k) = image[k] := by
  have hlen : (image.take 3583).length = min 3583 image.length := List.length_take
  have hread := Memory.read_writeBytes_inside (image.take 3583) 0x200 hm
    (by simp only [Config.memSize]; omega) k (by omega)
  exact hread.trans List.getElem_take

/-- The bytes past the image, and those past its first 3583 bytes, are not written (R124). -/
theorem read_loadImage_past (m : Memory) (hk : image.length ≤ k ∨ 3583 ≤ k) :
    (loadImage image m).read (0x200 + k) = m.read (0x200 + k) := by
  have hlen : (image.take 3583).length = min 3583 image.length := List.length_take
  exact Memory.read_writeBytes_outside (image.take 3583) 0x200 m (by omega)

/-! ### Memory after a reset -/

theorem read_resetState_font (p : Params) (image : List Byte) (ha : a < 80) :
    (resetState p image).mem.read a = p.font[a] :=
  (read_loadImage_below image _ (by omega)).trans (read_loadFont_inside rfl ha)

/-- Where neither the font nor the image was loaded, a byte is zero (R122). -/
theorem read_loadFont_reset_eq_zero (font : Vector Byte 80) (ha : 80 ≤ a) :
    (loadFont font State.reset.mem).read a = 0 :=
  (read_loadFont_outside font _ ha).trans (unlistedByte_eq_zero ha)

theorem read_resetState_gap (p : Params) (image : List Byte) (hfont : 80 ≤ a) (hbase : a < 0x200) :
    (resetState p image).mem.read a = 0 :=
  (read_loadImage_below image _ hbase).trans (read_loadFont_reset_eq_zero p.font hfont)

theorem read_resetState_image (p : Params) (hk : k < image.length) (hmax : k < 3583) :
    (resetState p image).mem.read (0x200 + k) = image[k] :=
  read_loadImage_inside (wf_loadFont p.font rfl) hk hmax

theorem read_resetState_past (p : Params) (hk : image.length ≤ k ∨ 3583 ≤ k) :
    (resetState p image).mem.read (0x200 + k) = 0 :=
  (read_loadImage_past _ hk).trans (read_loadFont_reset_eq_zero p.font (by omega))

/-! ### The state after a reset -/

theorem reg_resetState (p : Params) (image : List Byte) (r : RegIdx) : (resetState p image).reg r = 0 := by
  simp [State.reg, resetState, State.reset]

theorem key_resetState (p : Params) (image : List Byte) (k : Fin 16) : (resetState p image).key k = false := by
  simp [State.key, resetState, State.reset]

theorem ready_hostReset (image : List Byte) (s : State) : Ready (hostReset image s) :=
  ⟨rfl, rfl, show 0x200 + 1 < 4096 by decide⟩

/-- Under default decoding the word `0x0000` is CLS (D2). -/
theorem decode_zero_word : decode false [0, 0] = .ok (.cls 0, []) := by decide

/-- After an empty image both bytes at 0x200 are zero, so the first step runs CLS (R124). -/
theorem step_hostReset_nil (hstrict : s.params.strictDecode = false) :
    step (hostReset [] s) = exec (.cls 0) { hostReset [] s with pc := 0x202 } := by
  have hzero (k : Nat) : (hostReset [] s).mem.read (0x200 + k) = 0 :=
    read_resetState_past s.params (.inl (Nat.zero_le k))
  have hhi : (hostReset [] s).mem.read (hostReset [] s).pc.toNat = 0 := hzero 0
  have hlo : (hostReset [] s).mem.read ((hostReset [] s).pc.toNat + 1) = 0 := hzero 1
  have hmode : (hostReset [] s).params.strictDecode = false := hstrict
  refine stepRunsTheDecodedInstruction (hostReset [] s) (.cls 0) [] (ready_hostReset [] s) ?_
  rw [hhi, hlo, hmode, decode_zero_word]

/-- Settles O47: memory is the zeroed memory under the two loads, and the rest is the reset state. -/
theorem resetLeavesTheResetState : Obligations.ResetLeavesTheResetState := by
  intro image s
  refine ⟨hostReset image s, rfl, reg_resetState s.params image, rfl, rfl, rfl, rfl, rfl, rfl,
    Display.pix_clear, key_resetState s.params image, rfl, rfl,
    fun a ha => read_resetState_font s.params image ha,
    fun a hfont hbase => read_resetState_gap s.params image hfont hbase,
    fun k hk hmax => read_resetState_image s.params hk hmax,
    fun k hk _ => read_resetState_past s.params hk, ?_⟩
  rintro rfl hstrict
  exact step_hostReset_nil hstrict

/-- The empty image writes nothing, and neither does the default font. -/
theorem resetState_default_nil : resetState Params.default [] = State.reset := by
  have hmem : loadImage [] (loadFont Params.default.font State.reset.mem) = State.reset.mem := loadFont_font_nil
  rw [resetState, hmem]
  rfl

/-- Settles O49: with the default font and an empty image, the loads leave the reset memory as it is. -/
theorem resetStateIsResetWithEmptyImage : Obligations.ResetStateIsResetWithEmptyImage := by
  refine ⟨resetState_default_nil, ?_⟩
  rw [CleanLaunch, resetState_default_nil]

end Sys2Proof.Machine
end

section
/-! SUPPORT. Decoding undoes encoding, and encoding undoes decoding (30_encoding.md R44, R45). -/

namespace Sys2Proof

variable {w : Word} {i : Instr} {strict : Bool}

/-! ### The operands read from a word -/

theorem val_xField (w : Word) : (xField w).val = field w 8 4 := Nat.mod_mod _ _

theorem val_yField (w : Word) : (yField w).val = field w 4 4 := Nat.mod_mod _ _

theorem val_nField (w : Word) : (nField w).val = field w 0 4 := Nat.mod_mod _ _

theorem toNat_nnField (w : Word) : (nnField w).toNat = field w 0 8 := Nat.mod_mod _ _

theorem toNat_nnnField (w : Word) : (nnnField w).toNat = field w 0 12 := Nat.mod_mod _ _

theorem toNat_dcMid (w : Word) : (dcMid w).toNat = field w 4 4 := Nat.mod_mod _ _

theorem toNat_dcLow (w : Word) : (dcLow w).toNat = field w 0 4 := Nat.mod_mod _ _

theorem toNat_dcWide (w : Word) : (dcWide w).toNat = field w 4 8 := Nat.mod_mod _ _

theorem xField_eq_iff {x : RegIdx} : xField w = x ↔ field w 8 4 = x.val := by
  rw [Fin.ext_iff, val_xField]

theorem yField_eq_iff {y : RegIdx} : yField w = y ↔ field w 4 4 = y.val := by
  rw [Fin.ext_iff, val_yField]

theorem nField_eq_iff {n : Fin 16} : nField w = n ↔ field w 0 4 = n.val := by
  rw [Fin.ext_iff, val_nField]

theorem nnField_eq_iff {nn : Byte} : nnField w = nn ↔ field w 0 8 = nn.toNat := by
  rw [← BitVec.toNat_inj, toNat_nnField]

theorem nnnField_eq_iff {nnn : Addr} : nnnField w = nnn ↔ field w 0 12 = nnn.toNat := by
  rw [← BitVec.toNat_inj, toNat_nnnField]

theorem dcMid_eq_iff {dc : Nibble} : dcMid w = dc ↔ field w 4 4 = dc.toNat := by
  rw [← BitVec.toNat_inj, toNat_dcMid]

theorem dcLow_eq_iff {dc : Nibble} : dcLow w = dc ↔ field w 0 4 = dc.toNat := by
  rw [← BitVec.toNat_inj, toNat_dcLow]

theorem dcWide_eq_iff {dc : BitVec 8} : dcWide w = dc ↔ field w 4 8 = dc.toNat := by
  rw [← BitVec.toNat_inj, toNat_dcWide]

/-! ### Decoding undoes encoding -/

theorem decodeDefault_encode (i : Instr) : decodeDefault (encode i) = some i := by
  unfold decodeDefault opField
  cases i with
  | cls dc | ret dc =>
    simp (disch := omega) [encode, decodeFamily0, field_formWide_op, field_formWide_n,
      dcWide_eq_iff, field_formWide_dc]
  | jp | call | ldI | jpV0 =>
    simp (disch := omega) [encode, field_formNNN_op, nnnField_eq_iff, field_formNNN_nnn]
  | seImm | sneImm | ldImm | addImm | rnd =>
    simp (disch := omega) [encode, field_formXNN_op, xField_eq_iff, field_formXNN_x,
      nnField_eq_iff, field_formXNN_nn]
  | seReg | sneReg =>
    simp (disch := omega) [encode, field_nibbles_op, xField_eq_iff, field_nibbles_x,
      yField_eq_iff, field_nibbles_y, dcLow_eq_iff, field_nibbles_n]
  | drw =>
    simp (disch := omega) [encode, field_nibbles_op, xField_eq_iff, field_nibbles_x,
      yField_eq_iff, field_nibbles_y, nField_eq_iff, field_nibbles_n]
  | ldReg | orReg | andReg | xorReg | addReg | subReg | shr | subn | shl =>
    simp (disch := omega) [encode, field_nibbles_op, decodeFamily8, field_nibbles_n,
      xField_eq_iff, field_nibbles_x, yField_eq_iff, field_nibbles_y]
  | skp | sknp =>
    simp (disch := omega) [encode, field_nibbles_op, decodeFamilyE, field_nibbles_n,
      xField_eq_iff, field_nibbles_x, dcMid_eq_iff, field_nibbles_y]
  | ldVxDt | ldVxK | ldStVx | addIVx | ldFVx | ldBVx =>
    simp (disch := omega) [encode, field_nibbles_op, decodeFamilyF, field_nibbles_n,
      xField_eq_iff, field_nibbles_x, dcMid_eq_iff, field_nibbles_y]
  | ldDtVx | ldMemVx | ldVxMem =>
    simp (disch := omega) [encode, field_nibbles_op, decodeFamilyF, field_nibbles_n,
      decodeFamilyF5, field_nibbles_y, xField_eq_iff, field_nibbles_x]

theorem decodeWord_eq_some_iff_decodeDefault :
    decodeWord strict w = some i ↔ decodeDefault w = some i ∧ i.wellFormed strict = true :=
  Option.filter_eq_some_iff

/-- Settles O3: the word of the two bytes decodes to its instruction, which the mode does not reject. -/
theorem decodeOfEncodeIsTheInstruction : Obligations.DecodeOfEncodeIsTheInstruction := by
  intro strict i rest hwf
  refine decode_eq_ok_iff.2 ⟨?_, rfl⟩
  rw [wordOfBytes_bytes]
  exact decodeWord_eq_some_iff_decodeDefault.2 ⟨decodeDefault_encode i, hwf⟩

/-! ### Encoding undoes decoding -/

theorem formNNN_nnnField {op : Nat} (hop : opField w = op) : formNNN op (nnnField w) = w := by
  apply BitVec.eq_of_toNat_eq
  simp only [← hop, formNNN, toNat_nnnField, opField, field, BitVec.toNat_ofNat]
  omega

theorem formXNN_fields {op : Nat} (hop : opField w = op) : formXNN op (xField w) (nnField w) = w := by
  apply BitVec.eq_of_toNat_eq
  simp only [← hop, formXNN, val_xField, toNat_nnField, opField, field, BitVec.toNat_ofNat]
  omega

theorem formWide_dcWide {low : Nat} (hop : opField w = 0) (hlow : field w 0 4 = low) :
    formWide (dcWide w) low = w := by
  apply BitVec.eq_of_toNat_eq
  simp only [opField, field] at hop
  simp only [← hlow, formWide, toNat_dcWide, field, BitVec.toNat_ofNat]
  omega

/-- A word is put together again from its four nibbles. -/
theorem nibbles_fields (w : Word) : nibbles (field w 12 4) (field w 8 4) (field w 4 4) (field w 0 4) = w := by
  apply BitVec.eq_of_toNat_eq
  simp only [nibbles, field, BitVec.toNat_ofNat]
  omega

theorem nibbles_xField {op y n : Nat} (hop : opField w = op) (hy : field w 4 4 = y) (hn : field w 0 4 = n) :
    nibbles op (xField w) y n = w := by
  rw [← hop, ← hy, ← hn, val_xField]
  exact nibbles_fields w

theorem encode_of_decodeFamily0 (hop : opField w = 0x0) (h : decodeFamily0 w = some i) : encode i = w := by
  unfold decodeFamily0 at h
  split at h <;> cases h <;> exact formWide_dcWide hop ‹_›

theorem encode_of_decodeFamily8 (hop : opField w = 0x8) (h : decodeFamily8 w = some i) : encode i = w := by
  unfold decodeFamily8 at h
  split at h <;> cases h <;> exact nibbles_xField hop (val_yField w).symm ‹_›

theorem encode_of_decodeFamilyE (hop : opField w = 0xE) (h : decodeFamilyE w = some i) : encode i = w := by
  unfold decodeFamilyE at h
  split at h <;> cases h <;> exact nibbles_xField hop (toNat_dcMid w).symm ‹_›

theorem encode_of_decodeFamilyF5 (hop : opField w = 0xF) (hn : field w 0 4 = 0x5)
    (h : decodeFamilyF5 w = some i) : encode i = w := by
  unfold decodeFamilyF5 at h
  split at h <;> cases h <;> exact nibbles_xField hop ‹_› hn

theorem encode_of_decodeFamilyF (hop : opField w = 0xF) (h : decodeFamilyF w = some i) : encode i = w := by
  unfold decodeFamilyF at h
  split at h
  case h_2 hn => exact encode_of_decodeFamilyF5 hop hn h
  all_goals cases h
  all_goals exact nibbles_xField hop (toNat_dcMid w).symm ‹_›

/-- The alternative `h_k` of the dispatch is the one of family `k - 1`. -/
theorem encode_of_decodeDefault (h : decodeDefault w = some i) : encode i = w := by
  unfold decodeDefault at h
  split at h
  case h_1 hop => exact encode_of_decodeFamily0 hop h
  case h_9 hop => exact encode_of_decodeFamily8 hop h
  case h_15 hop => exact encode_of_decodeFamilyE hop h
  case h_16 hop => exact encode_of_decodeFamilyF hop h
  all_goals cases h
  case h_2 hop | h_3 hop | h_11 hop | h_12 hop => exact formNNN_nnnField hop
  case h_4 hop | h_5 hop | h_7 hop | h_8 hop | h_13 hop => exact formXNN_fields hop
  case h_6 hop | h_10 hop => exact nibbles_xField hop (val_yField w).symm (toNat_dcLow w).symm
  case h_14 hop => exact nibbles_xField hop (val_yField w).symm (val_nField w).symm

/-- Decoding and encoding are each other's inverses. -/
theorem decodeWord_eq_some_iff : decodeWord strict w = some i ↔ encode i = w ∧ i.wellFormed strict = true := by
  rw [decodeWord_eq_some_iff_decodeDefault]
  refine and_congr_left fun _ => ⟨encode_of_decodeDefault, ?_⟩
  rintro rfl
  exact decodeDefault_encode i

/-- Settles O4: the operands hold every bit of the word that its row does not fix. -/
theorem encodeOfDecodeIsTheWord : Obligations.EncodeOfDecodeIsTheWord :=
  fun _ _ _ => decodeWord_eq_some_iff.1

/-- Settles O7: whatever the mode, the instruction is the one whose encoding the word is. -/
theorem strictDecodingIsASubset : Obligations.StrictDecodingIsASubset := by
  intro w i h
  obtain ⟨hword, -⟩ := decodeWord_eq_some_iff.1 h
  exact decodeWord_eq_some_iff.2 ⟨hword, rfl⟩

/-- Settles O2, by evaluation of the decoder. -/
theorem patternWordsDecode : Obligations.PatternWordsDecode := by
  unfold Obligations.PatternWordsDecode
  decide

end Sys2Proof
end

section
/-! SUPPORT. The words that decode to nothing (30_encoding.md R47). -/

namespace Sys2Proof

variable {w : Word}

theorem field_lt (w : Word) (lo width : Nat) : field w lo width < 2 ^ width :=
  Nat.mod_lt _ (Nat.two_pow_pos width)

theorem decodeFamily0_eq_none_iff : decodeFamily0 w = none ↔ field w 0 4 ∉ [0x0, 0xE] := by
  unfold decodeFamily0
  split <;> simp_all

theorem decodeFamily8_eq_none_iff :
    decodeFamily8 w = none ↔ field w 0 4 ∈ [0x8, 0x9, 0xA, 0xB, 0xC, 0xD, 0xF] := by
  have hn : field w 0 4 < 16 := field_lt w 0 4
  unfold decodeFamily8
  split
  case h_10 =>
    simp_all
    omega
  all_goals simp [*]

theorem decodeFamilyE_eq_none_iff : decodeFamilyE w = none ↔ field w 0 4 ∉ [0x1, 0xE] := by
  unfold decodeFamilyE
  split <;> simp_all

theorem decodeFamilyF5_eq_none_iff : decodeFamilyF5 w = none ↔ field w 4 4 ∉ [0x1, 0x5, 0x6] := by
  unfold decodeFamilyF5
  split <;> simp_all

theorem decodeFamilyF_eq_none_iff :
    decodeFamilyF w = none ↔ field w 0 4 ∈ [0x0, 0x1, 0x2, 0x4, 0x6, 0xB, 0xC, 0xD, 0xF] ∨
      (field w 0 4 = 0x5 ∧ field w 4 4 ∉ [0x1, 0x5, 0x6]) := by
  have hn : field w 0 4 < 16 := field_lt w 0 4
  unfold decodeFamilyF
  split
  case h_2 hn => simp [hn, decodeFamilyF5_eq_none_iff]
  case h_8 =>
    simp_all
    omega
  all_goals simp [*]

theorem decodeDefault_eq_none_iff :
    decodeDefault w = none ↔
      (opField w = 0x0 ∧ decodeFamily0 w = none) ∨ (opField w = 0x8 ∧ decodeFamily8 w = none) ∨
      (opField w = 0xE ∧ decodeFamilyE w = none) ∨ (opField w = 0xF ∧ decodeFamilyF w = none) := by
  have hop : opField w < 16 := field_lt w 12 4
  unfold decodeDefault
  split
  case h_17 =>
    simp only [imp_false] at *
    omega
  all_goals simp [*]

theorem opField_eq_div (w : Word) : opField w = w.toNat / 4096 := by
  rw [opField, field]
  omega

theorem field_low_eq_mod (w : Word) : field w 0 4 = w.toNat % 16 := by
  rw [field]
  omega

/-- Settles O6: four families dispatch further, and each rejects the nibbles it has no instruction for. -/
theorem invalidWordsAreTheListedOnes : Obligations.InvalidWordsAreTheListedOnes := by
  intro w
  have hdefault : decodeWord false w = none ↔ decodeDefault w = none := by
    simp [decodeWord, Instr.wellFormed, Option.eq_none_iff_forall_ne_some]
  rw [hdefault, decodeDefault_eq_none_iff, decodeFamily0_eq_none_iff, decodeFamily8_eq_none_iff,
    decodeFamilyE_eq_none_iff, decodeFamilyF_eq_none_iff, opField_eq_div, field_low_eq_mod]
  rfl

end Sys2Proof
end

section
/-! SUPPORT. The opcode map: its masks and matches read nibble by nibble, and that they select the words that decode (30_encoding.md R46). -/

namespace Sys2Proof

variable {w m : Word} {strict : Bool} {r : OpcodeRow}

/-- A bitwise AND goes nibble by nibble. -/
theorem field_and (w m : Word) (lo width : Nat) :
    field (w &&& m) lo width = field w lo width &&& field m lo width := by
  simp only [field, BitVec.toNat_and, Nat.and_div_two_pow, Nat.and_mod_two_pow]

/-- A mask nibble of ones keeps the nibble. -/
theorem field_and_fifteen (w : Word) (lo : Nat) : field w lo 4 &&& 15 = field w lo 4 :=
  Nat.and_two_pow_sub_one_of_lt_two_pow (field_lt w lo 4)

theorem eq_iff_nibbles : w = m ↔ opField w = m.toNat / 4096 ∧ field w 8 4 = m.toNat / 256 % 16 ∧
    field w 4 4 = m.toNat / 16 % 16 ∧ field w 0 4 = m.toNat % 16 := by
  rw [← BitVec.toNat_inj]
  simp only [opField, field]
  omega

theorem and_0xF000_eq_iff : w &&& 0xF000#16 = m ↔ opField w = m.toNat / 4096 ∧ m.toNat % 4096 = 0 := by
  have hmask : field 0xF000#16 12 4 = 15 ∧ field 0xF000#16 8 4 = 0 ∧
      field 0xF000#16 4 4 = 0 ∧ field 0xF000#16 0 4 = 0 := by decide
  simp only [eq_iff_nibbles, opField, field_and, hmask, field_and_fifteen, Nat.and_zero]
  omega

theorem and_0xF00F_eq_iff : w &&& 0xF00F#16 = m ↔
    opField w = m.toNat / 4096 ∧ m.toNat / 16 % 256 = 0 ∧ field w 0 4 = m.toNat % 16 := by
  have hmask : field 0xF00F#16 12 4 = 15 ∧ field 0xF00F#16 8 4 = 0 ∧
      field 0xF00F#16 4 4 = 0 ∧ field 0xF00F#16 0 4 = 15 := by decide
  simp only [eq_iff_nibbles, opField, field_and, hmask, field_and_fifteen, Nat.and_zero]
  omega

theorem and_0xF0FF_eq_iff : w &&& 0xF0FF#16 = m ↔
    opField w = m.toNat / 4096 ∧ m.toNat / 256 % 16 = 0 ∧ field w 4 4 = m.toNat / 16 % 16 ∧
    field w 0 4 = m.toNat % 16 := by
  have hmask : field 0xF0FF#16 12 4 = 15 ∧ field 0xF0FF#16 8 4 = 0 ∧
      field 0xF0FF#16 4 4 = 15 ∧ field 0xF0FF#16 0 4 = 15 := by decide
  simp only [eq_iff_nibbles, opField, field_and, hmask, field_and_fifteen, Nat.and_zero]
  omega

theorem and_0xFFFF_eq_iff : w &&& 0xFFFF#16 = m ↔
    opField w = m.toNat / 4096 ∧ field w 4 8 = m.toNat / 16 % 256 ∧ field w 0 4 = m.toNat % 16 := by
  have hmask : w &&& 0xFFFF#16 = w := BitVec.and_allOnes
  rw [hmask, ← BitVec.toNat_inj]
  simp only [opField, field]
  omega

theorem selects_false_iff : r.selects false w = true ↔ w &&& r.mask = r.matchBits := by
  simp [OpcodeRow.selects]

theorem selects_true_iff : r.selects true w = true ↔ w &&& r.maskStrict = r.matchStrict := by
  simp [OpcodeRow.selects]

/-- Strict masks look at every bit that the default ones do. -/
theorem selects_false_of_selects (hr : r ∈ opcodeTable) (h : r.selects strict w = true) :
    r.selects false w = true := by
  have hrefine : ∀ r ∈ opcodeTable, r.maskStrict &&& r.mask = r.mask ∧ r.matchStrict &&& r.mask = r.matchBits := by
    decide
  obtain ⟨hmask, hmatch⟩ := hrefine r hr
  cases strict with
  | false => exact h
  | true =>
    rw [selects_true_iff] at h
    rw [selects_false_iff, ← hmatch, ← h, BitVec.and_assoc, hmask]

/-- A row that selects a word agrees with it on every nibble of which the mask keeps all bits. -/
theorem field_eq_of_selects (h : r.selects false w = true) {lo : Nat} (hmask : field r.mask lo 4 = 15) :
    field w lo 4 = field r.matchBits lo 4 := by
  rw [← selects_false_iff.1 h, field_and, hmask, field_and_fifteen]

/-- The rows of the families that dispatch further give nibbles that the decoder knows. -/
theorem decodeDefault_ne_none_of_selects (hr : r ∈ opcodeTable) (h : r.selects false w = true) :
    decodeDefault w ≠ none := by
  have hop : ∀ r ∈ opcodeTable, field r.mask 12 4 = 15 := by decide
  have hrow0 : ∀ r ∈ opcodeTable, field r.matchBits 12 4 = 0x0 →
      field r.mask 0 4 = 15 ∧ field r.matchBits 0 4 ∈ [0x0, 0xE] := by decide
  have hrow8 : ∀ r ∈ opcodeTable, field r.matchBits 12 4 = 0x8 →
      field r.mask 0 4 = 15 ∧ field r.matchBits 0 4 ∉ [0x8, 0x9, 0xA, 0xB, 0xC, 0xD, 0xF] := by decide
  have hrowE : ∀ r ∈ opcodeTable, field r.matchBits 12 4 = 0xE →
      field r.mask 0 4 = 15 ∧ field r.matchBits 0 4 ∈ [0x1, 0xE] := by decide
  have hrowF : ∀ r ∈ opcodeTable, field r.matchBits 12 4 = 0xF → field r.mask 0 4 = 15 ∧
      field r.matchBits 0 4 ∉ [0x0, 0x1, 0x2, 0x4, 0x6, 0xB, 0xC, 0xD, 0xF] ∧
      (field r.matchBits 0 4 = 0x5 → field r.mask 4 4 = 15 ∧ field r.matchBits 4 4 ∈ [0x1, 0x5, 0x6]) := by decide
  have hopw : opField w = field r.matchBits 12 4 := field_eq_of_selects h (hop r hr)
  rw [Ne, decodeDefault_eq_none_iff, hopw]
  rintro (⟨hfam, hnone⟩ | ⟨hfam, hnone⟩ | ⟨hfam, hnone⟩ | ⟨hfam, hnone⟩)
  · obtain ⟨hmask, hlow⟩ := hrow0 r hr hfam
    rw [decodeFamily0_eq_none_iff, field_eq_of_selects h hmask] at hnone
    exact hnone hlow
  · obtain ⟨hmask, hlow⟩ := hrow8 r hr hfam
    rw [decodeFamily8_eq_none_iff, field_eq_of_selects h hmask] at hnone
    exact hlow hnone
  · obtain ⟨hmask, hlow⟩ := hrowE r hr hfam
    rw [decodeFamilyE_eq_none_iff, field_eq_of_selects h hmask] at hnone
    exact hnone hlow
  · obtain ⟨hmask, hlow, hmid⟩ := hrowF r hr hfam
    rw [decodeFamilyF_eq_none_iff, field_eq_of_selects h hmask] at hnone
    obtain hnone | ⟨hfive, hnone⟩ := hnone
    · exact hlow hnone
    · obtain ⟨hmask, hmid⟩ := hmid hfive
      rw [field_eq_of_selects h hmask] at hnone
      exact hnone hmid

/-- No word is selected by two rows. -/
theorem eq_of_selects {q : OpcodeRow} (hr : r ∈ opcodeTable) (hq : q ∈ opcodeTable)
    (hrw : r.selects false w = true) (hqw : q.selects false w = true) : r = q := by
  have hoverlap : ∀ r ∈ opcodeTable, ∀ q ∈ opcodeTable,
      r.matchBits &&& q.mask = q.matchBits &&& r.mask → r = q := by decide
  refine hoverlap r hr q hq ?_
  rw [← selects_false_iff.1 hrw, ← selects_false_iff.1 hqw, BitVec.and_assoc, BitVec.and_assoc,
    BitVec.and_comm r.mask]

/-- The row of the opcode map that stands for an instruction, by its number. -/
def Instr.tableRow (i : Instr) : OpcodeRow := opcodeTable[i.row - 1]'(by cases i <;> simp [row, opcodeTable])

theorem tableRow_mem (i : Instr) : i.tableRow ∈ opcodeTable := List.getElem_mem _

theorem number_tableRow (i : Instr) : i.tableRow.number = i.row := by
  cases i <;> rfl

/-- The row of an instruction selects its word by default; its strict mask looks at the don't-care bits as well. -/
theorem selects_tableRow_encode (strict : Bool) (i : Instr) :
    i.tableRow.selects strict (encode i) = i.wellFormed strict := by
  rw [Bool.eq_iff_iff]
  unfold OpcodeRow.selects Instr.tableRow opcodeTable Instr.wellFormed
  cases i with
  | jp | call | ldI | jpV0 =>
    simp (disch := omega) [Instr.row, Instr.canonical, encode, and_0xF000_eq_iff, opField, field_formNNN_op]
  | seImm | sneImm | ldImm | addImm | rnd =>
    simp (disch := omega) [Instr.row, Instr.canonical, encode, and_0xF000_eq_iff, opField, field_formXNN_op]
  | drw =>
    simp (disch := omega) [Instr.row, Instr.canonical, encode, and_0xF000_eq_iff, opField, field_nibbles_op]
  | cls dc | ret dc =>
    simp (disch := omega) [Instr.row, Instr.canonical, encode, and_0xF00F_eq_iff, and_0xFFFF_eq_iff, opField,
      field_formWide_op, field_formWide_dc, field_formWide_n, BitVec.toNat_eq (x := dc), imp_iff_not_or]
  | seReg x y dc | sneReg x y dc =>
    simp (disch := omega) [Instr.row, Instr.canonical, encode, and_0xF000_eq_iff, and_0xF00F_eq_iff, opField,
      field_nibbles_op, field_nibbles_n, BitVec.toNat_eq (x := dc), imp_iff_not_or]
  | ldReg | orReg | andReg | xorReg | addReg | subReg | shr | subn | shl =>
    simp (disch := omega) [Instr.row, Instr.canonical, encode, and_0xF00F_eq_iff, opField, field_nibbles_op,
      field_nibbles_n]
  | ldDtVx | ldMemVx | ldVxMem =>
    simp (disch := omega) [Instr.row, Instr.canonical, encode, and_0xF0FF_eq_iff, opField, field_nibbles_op,
      field_nibbles_y, field_nibbles_n]
  | skp x dc | sknp x dc | ldVxDt x dc | ldVxK x dc | ldStVx x dc | addIVx x dc | ldFVx x dc | ldBVx x dc =>
    simp (disch := omega) [Instr.row, Instr.canonical, encode, and_0xF00F_eq_iff, and_0xF0FF_eq_iff, opField,
      field_nibbles_op, field_nibbles_y, field_nibbles_n, BitVec.toNat_eq (x := dc), imp_iff_not_or]

/-- The word decodes by default, and the row of its instruction is the only one that selects it; the strict mask then
says that the instruction is canonical. -/
theorem decodeWord_of_selects (hr : r ∈ opcodeTable) (h : r.selects strict w = true) :
    ∃ i, decodeWord strict w = some i ∧ r = i.tableRow := by
  have hdefault : r.selects false w = true := selects_false_of_selects hr h
  obtain ⟨i, hi⟩ := Option.ne_none_iff_exists'.1 (decodeDefault_ne_none_of_selects hr hdefault)
  obtain rfl : encode i = w := encode_of_decodeDefault hi
  obtain rfl : r = i.tableRow :=
    eq_of_selects hr (tableRow_mem i) hdefault (selects_tableRow_encode false i)
  rw [selects_tableRow_encode] at h
  exact ⟨i, decodeWord_eq_some_iff.2 ⟨rfl, h⟩, rfl⟩

/-- Settles O5: a row that selects a word is the row of the instruction the word decodes to, and that row selects it. -/
theorem decoderAgreesWithOpcodeMap : Obligations.DecoderAgreesWithOpcodeMap := by
  intro strict w k
  constructor
  · rintro ⟨r, hr, rfl, hsel⟩
    obtain ⟨i, hi, rfl⟩ := decodeWord_of_selects hr hsel
    exact ⟨i, hi, (number_tableRow i).symm⟩
  · rintro ⟨i, hi, rfl⟩
    obtain ⟨rfl, hwf⟩ := decodeWord_eq_some_iff.1 hi
    exact ⟨i.tableRow, tableRow_mem i, number_tableRow i, (selects_tableRow_encode strict i).trans hwf⟩

end Sys2Proof
end

section
/-! SUPPORT. Halting: a handler's fault commits nothing, a fetch out of range faults, and the halted state absorbs everything but a reset (60_exceptions.md R105 to R107, 70_reset_and_hazards.md R125; D7, D13, D14, D24). -/

namespace Sys2Proof.Machine

variable {s t : State} {f : FaultRecord}

/-- Settles O13: a running machine is halted by a raised fault alone, and raising writes the run state alone. -/
theorem faultsArePrecise : Obligations.FaultsArePrecise := by
  intro i s t f hrun h hhalt
  obtain ⟨g, hraise⟩ | ⟨u, hnext, hkept⟩ := exec_raisesOrCompletes s i
  · cases h.symm.trans (hraise.trans (raise_eq i g s))
    cases hhalt
    exact ⟨rfl, rfl, rfl, rfl⟩
  · cases h.symm.trans hnext
    simp [hkept, hrun] at hhalt

/-- The first of the two fetched addresses that lies outside memory (R31). -/
theorem max_memSize_eq_ite {pc : Nat} (hpc : 4096 ≤ pc + 1) : max pc 4096 = if 0x1000 ≤ pc then pc else pc + 1 := by
  split <;> omega

/-- Settles O10: the fault is taken before `pc` advances. -/
theorem fetchOutOfRangeFaults : Obligations.FetchOutOfRangeFaults := by
  intro s hrun hwait hpc
  refine ⟨_, (step_eq_fetchFault hrun hwait hpc).trans (takeFault_eq _ _ _ s), rfl, ?_⟩
  rw [State.run_setRun, max_memSize_eq_ite hpc]

/-! ### The halted state -/

theorem run_ne_running_of_halted (h : s.run = .halted f) : s.run ≠ .running := by
  simp [h]

/-- Settles O8: a halted machine rests, and its status reports the record. -/
theorem haltedStepChangesNothing : Obligations.HaltedStepChangesNothing := by
  intro s f hhalt
  refine ⟨step_eq_self (.inl (run_ne_running_of_halted hhalt)), ?_⟩
  simp only [State.status, hhalt]

/-- A halted machine ignores a delivery, and the other actions but the reset do not write the run state (D14, D29). -/
theorem halted_of_hostAct {a : HostAction} (hhalt : s.run = .halted f) (hreset : ∀ image, a ≠ .reset image)
    (h : hostAct a s = .next t) : t.run = .halted f := by
  have hrest : s.run ≠ .running := run_ne_running_of_halted hhalt
  by_cases hdeliver : ∃ k, a = .deliverKey k
  · obtain ⟨k, rfl⟩ := hdeliver
    obtain hkey | hnone := Nat.lt_or_ge k 16
    · rw [hostAct_deliverKey_eq_next hkey, deliverKey_eq_self (.inl hrest)] at h
      cases h
      exact hhalt
    · rw [hostAct_deliverKey_eq_refused hnone] at h
      cases h
  · push Not at hdeliver
    obtain ⟨-, -, -, -, -, -, -, -, -, -, hrun, -, -⟩ := onlyChanges_hostAct_of_resting (.inl hrest) hdeliver hreset h
    exact (hrun (by decide)).trans hhalt

/-- Settles O59, by induction on the sequence: every action of it keeps the machine halted with the record. -/
theorem onlyResetLeavesTheHaltedState : Obligations.OnlyResetLeavesTheHaltedState := by
  intro as s t f hhalt hreset h
  have hkeep : ∀ a ∈ as, ∀ s t, s.run = .halted f → hostAct a s = .next t → t.run = .halted f :=
    fun a ha s t hs hact => halted_of_hostAct hs (fun image heq => hreset image (heq ▸ ha)) hact
  have ht : t.run = .halted f := runActions_keeps (P := fun u => u.run = .halted f) hkeep s t hhalt h
  refine ⟨ht, ?_⟩
  simp only [State.readFault, ht]

/-- Settles O48: a reset reads the parameters and the oracle's position alone, and hands both on. -/
theorem resetForgetsTheState : Obligations.ResetForgetsTheState := by
  intro image s s' hparams hdraws
  refine ⟨?_, fun t h => ?_⟩
  · simp only [hostAct, hostReset, hparams, hdraws]
  · cases h
    exact ⟨rfl, rfl⟩

end Sys2Proof.Machine
end

section
/-! SUPPORT. The step that runs a given instruction: a jump to itself, and a word placed where the next fetch reads (40_dispatch.md R52, R53, 60_exceptions.md R121; log 10, D27). -/

namespace Sys2Proof.Machine

variable {s : State} {w : Word} {i : Instr}

/-- A ready machine runs the instruction that the fetched word decodes to (R53). -/
theorem step_eq_exec_of_fetch (h : Ready s) (hfetch : s.fetch = .ok w)
    (hword : decodeWord s.params.strictDecode w = some i) : step s = exec i s.advance := by
  obtain ⟨-, -, hpc⟩ := id h
  cases (fetch_eq_ok hpc).symm.trans hfetch
  rw [step_eq_dispatchWord h, dispatchWord_eq_exec hword]

/-- Settles O55: the jump overwrites the advanced `pc` with the one before the advance. -/
theorem selfLoopStepChangesNothing : Obligations.SelfLoopStepChangesNothing := by
  rintro s hready ⟨w, nnn, hfetch, hword, htarget⟩ hlow
  have hjump : exec (.jp nnn) s.advance = .next (s.advance.setPc nnn.toNat) :=
    execJp_eq_next (htarget ▸ hlow) s.advance
  have hback : s.advance.setPc nnn.toNat = s := htarget ▸ setPc_toNat_pc s
  rw [step_eq_exec_of_fetch hready hfetch hword, hjump, hback]

/-! ### A placed word -/

/-- A word laid at the slot lies in memory. -/
theorem fetchSlot_add_two_le (s : State) : s.fetchSlot + 2 ≤ Config.memSize := by
  unfold State.fetchSlot
  split
  · assumption
  · decide

theorem toNat_pc_withFetchWord (s : State) (nbits v : Nat) : (s.withFetchWord nbits v).pc.toNat = s.fetchSlot := by
  have hslot : s.fetchSlot + 2 ≤ 4096 := fetchSlot_add_two_le s
  rw [State.withFetchWord, BitVec.toNat_ofNat]
  omega

theorem ready_withFetchWord (s : State) (nbits v : Nat) : Ready (s.withFetchWord nbits v) := by
  refine ⟨rfl, rfl, ?_⟩
  rw [toNat_pc_withFetchWord]
  exact fetchSlot_add_two_le s

/-- The fetch reads the word that was placed, whose bits above the width are dropped. -/
theorem fetch_withFetchWord (hm : s.mem.wf = true) (nbits v : Nat) :
    (s.withFetchWord nbits v).fetch = .ok (BitVec.ofNat 16 (v % 2 ^ nbits)) := by
  have hread := Memory.read_writeBytes_inside
    [highByte (BitVec.ofNat 16 (v % 2 ^ nbits)), lowByte (BitVec.ofNat 16 (v % 2 ^ nbits))] s.fetchSlot hm
    (fetchSlot_add_two_le s)
  have hhi : (s.withFetchWord nbits v).mem.read s.fetchSlot = _ := hread 0 (by simp)
  have hlo : (s.withFetchWord nbits v).mem.read (s.fetchSlot + 1) = _ := hread 1 (by simp)
  obtain ⟨-, -, hpc⟩ := ready_withFetchWord s nbits v
  rw [fetch_eq_ok hpc, toNat_pc_withFetchWord, hhi, hlo]
  exact congrArg _ (wordOfBytes_bytes _)

/-- Wherever an instruction can be fetched at `pc`, the word is laid there. -/
theorem pc_withFetchWord_eq_self (h : s.pc.toNat + 1 < 4096) (nbits v : Nat) : (s.withFetchWord nbits v).pc = s.pc := by
  apply BitVec.eq_of_toNat_eq
  rw [toNat_pc_withFetchWord]
  exact if_pos h

theorem pc_advance_withFetchWord (s : State) (nbits v : Nat) :
    (s.withFetchWord nbits v).advance.pc = BitVec.ofNat 16 (s.fetchSlot + 2) := by
  rw [State.advance, State.pc_setPc, toNat_pc_withFetchWord]

theorem onlyChanges_advance_withFetchWord (s : State) (nbits v : Nat) :
    OnlyChanges [.mem, .pc, .wait, .run] s (s.withFetchWord nbits v).advance := by
  simp [OnlyChanges, State.withFetchWord, State.advance, State.reg]

theorem bytesKeptOutside_advance_withFetchWord (s : State) (nbits v : Nat) :
    BytesKeptOutside s.fetchSlot 2 s (s.withFetchWord nbits v).advance :=
  bytesKeptOutside_writeBytes (vs := [_, _]) rfl

/-- Settles O16: the machine with the word placed is ready, and its fetch reads that word. -/
theorem placedWordRunsNext : Obligations.PlacedWordRunsNext := by
  intro s w i hm hw hword
  have hfetch : (s.withFetchWord 16 w).fetch = .ok (BitVec.ofNat 16 w) := by
    rw [fetch_withFetchWord hm, Nat.mod_eq_of_lt (show w < 2 ^ 16 from hw)]
  refine ⟨(s.withFetchWord 16 w).advance, step_eq_exec_of_fetch (ready_withFetchWord s 16 w) hfetch hword,
    pc_advance_withFetchWord s 16 w, fun hpc => ?_, rfl, rfl,
    bytesKeptOutside_advance_withFetchWord s 16 w, onlyChanges_advance_withFetchWord s 16 w⟩
  rw [pc_advance_eq_add, pc_withFetchWord_eq_self hpc]

end Sys2Proof.Machine
end

section
/-! SUPPORT. The parts of the state that each instruction may write, and that it writes no other (10_state.md sections 2 to 11; D3, D6). -/

namespace Sys2Proof.Machine

variable {s t : State} {i : Instr} {changed : List Part}

/-! ### The frame of an instruction -/

/-- The parts of the state that an instruction may write, the run state among them where its handler may raise a
fault. -/
def writtenParts : Instr → List Part
  | .cls _ => [.display]
  | .ret _ | .call _ => [.pc, .stack, .run]
  | .jp _ | .skp _ _ | .sknp _ _ => [.pc, .run]
  | .jpV0 _ | .seImm _ _ | .sneImm _ _ | .seReg _ _ _ | .sneReg _ _ _ => [.pc]
  | .ldImm _ _ | .addImm _ _ | .ldReg _ _ | .orReg _ _ | .andReg _ _ | .xorReg _ _ | .addReg _ _ | .subReg _ _
  | .shr _ _ | .subn _ _ | .shl _ _ | .ldVxDt _ _ => [.regs]
  | .rnd _ _ => [.regs, .draws]
  | .drw _ _ _ => [.display, .regs, .run]
  | .ldI _ | .addIVx _ _ | .ldFVx _ _ => [.addr]
  | .ldVxK _ _ => [.wait]
  | .ldDtVx _ => [.DT]
  | .ldStVx _ _ => [.ST]
  | .ldBVx _ _ => [.mem, .run]
  | .ldMemVx _ => [.mem, .addr, .run]
  | .ldVxMem _ => [.regs, .addr, .run]

/-- If the answer is a next state, nothing but the listed parts differs from `s`. -/
def AnswersChanging (changed : List Part) (s : State) (r : Result) : Prop := ∀ t, r = .next t → OnlyChanges changed s t

theorem answersChanging_of_eq_next {r : Result} (hr : r = .next t) {part : List Part} (ht : OnlyChanges part s t)
    (hsub : part ⊆ changed) : AnswersChanging changed s r := by
  intro u hu
  cases hr.symm.trans hu
  exact ht.mono hsub

theorem onlyChanges_setRun (r : RunState) (s : State) : OnlyChanges [.run] s (s.setRun r) := by
  simp [OnlyChanges]

theorem answersChanging_of_eq_raise {r : Result} {f : Fault} (hr : r = raise i f s) (hrun : .run ∈ changed) :
    AnswersChanging changed s r :=
  answersChanging_of_eq_next (hr.trans (raise_eq i f s)) (onlyChanges_setRun _ s) (by simpa using hrun)

theorem answersChanging_execRet (dc : BitVec 8) (s : State) :
    AnswersChanging [.pc, .stack, .run] s (execRet dc s) := by
  cases hstack : s.stack with
  | nil => exact answersChanging_of_eq_raise (execRet_eq_raise dc hstack) (by simp)
  | cons a rest =>
    exact answersChanging_of_eq_next (execRet_eq_next dc hstack) (onlyChanges_popped_setPc _ s) (by simp)

theorem answersChanging_execJp (nnn : Addr) (s : State) : AnswersChanging [.pc, .run] s (execJp nnn s) := by
  obtain hlow | hvalid := Nat.lt_or_ge nnn.toNat 0x200
  · exact answersChanging_of_eq_raise (execJp_eq_raise hlow s) (by simp)
  · exact answersChanging_of_eq_next (execJp_eq_next hvalid s) (onlyChanges_setPc _ s) (by simp)

theorem answersChanging_execCall (nnn : Addr) (s : State) :
    AnswersChanging [.pc, .stack, .run] s (execCall nnn s) := by
  obtain hlow | hvalid := Nat.lt_or_ge nnn.toNat 0x200
  · exact answersChanging_of_eq_raise (execCall_eq_raise_low hlow s) (by simp)
  · obtain hroom | hfull := Nat.lt_or_ge s.sp 12
    · exact answersChanging_of_eq_next (execCall_eq_next hvalid hroom) (onlyChanges_pushed_setPc _ _ s) (by simp)
    · exact answersChanging_of_eq_raise (execCall_eq_raise_full hvalid hfull) (by simp)

theorem answersChanging_execSkp (x : RegIdx) (dc : Nibble) (s : State) :
    AnswersChanging [.pc, .run] s (execSkp x dc s) := by
  obtain hkey | hnone := Nat.lt_or_ge (s.reg x).toNat 16
  · exact answersChanging_of_eq_next (execSkp_eq_next (k := ⟨_, hkey⟩) dc rfl) (onlyChanges_skipIf _ s) (by simp)
  · exact answersChanging_of_eq_raise (execSkp_eq_raise dc hnone) (by simp)

theorem answersChanging_execSknp (x : RegIdx) (dc : Nibble) (s : State) :
    AnswersChanging [.pc, .run] s (execSknp x dc s) := by
  obtain hkey | hnone := Nat.lt_or_ge (s.reg x).toNat 16
  · exact answersChanging_of_eq_next (execSknp_eq_next (k := ⟨_, hkey⟩) dc rfl) (onlyChanges_skipIf _ s) (by simp)
  · exact answersChanging_of_eq_raise (execSknp_eq_raise dc hnone) (by simp)

theorem answersChanging_execDrw (x y : RegIdx) (n : Fin 16) (s : State) :
    AnswersChanging [.display, .regs, .run] s (execDrw x y n s) := by
  obtain ⟨f, hraise⟩ | ⟨ps, hdraw⟩ := execDrw_raises_or_draws x y n s
  · exact answersChanging_of_eq_raise hraise (by simp)
  · exact answersChanging_of_eq_next hdraw (onlyChanges_drawSprite s ps) (by simp)

theorem answersChanging_execLdBVx (x : RegIdx) (dc : Nibble) (s : State) :
    AnswersChanging [.mem, .run] s (execLdBVx x dc s) := by
  obtain ⟨f, hraise⟩ | ⟨m, hstore⟩ := execLdBVx_raises_or_stores x dc s
  · exact answersChanging_of_eq_raise hraise (by simp)
  · exact answersChanging_of_eq_next hstore (onlyChanges_setMem m s) (by simp)

theorem answersChanging_execLdMemVx (x : RegIdx) (s : State) :
    AnswersChanging [.mem, .addr, .run] s (execLdMemVx x s) := by
  obtain ⟨f, hraise⟩ | ⟨m, v, hstore⟩ := execLdMemVx_raises_or_stores x s
  · exact answersChanging_of_eq_raise hraise (by simp)
  · exact answersChanging_of_eq_next hstore (onlyChanges_setMem_setI m v s) (by simp)

theorem answersChanging_execLdVxMem (x : RegIdx) (s : State) :
    AnswersChanging [.regs, .addr, .run] s (execLdVxMem x s) := by
  obtain ⟨f, hraise⟩ | ⟨regs, v, hload⟩ := execLdVxMem_raises_or_loads x s
  · exact answersChanging_of_eq_raise hraise (by simp)
  · exact answersChanging_of_eq_next hload (onlyChanges_setRegs_setI regs v s) (by simp)

theorem onlyChanges_rndWith (v : Byte) (x : RegIdx) (nn : Byte) (s : State) :
    OnlyChanges [.regs, .draws] s (rndWith v x nn s) := by
  simp [OnlyChanges, rndWith]

theorem answersChanging_exec (i : Instr) (s : State) : AnswersChanging (writtenParts i) s (exec i s) := by
  have hnext {u : State} {parts : List Part} (hu : OnlyChanges parts s u) : AnswersChanging parts s (.next u) :=
    answersChanging_of_eq_next rfl hu (List.Subset.refl parts)
  cases i with
  | cls dc => exact hnext (onlyChanges_setDisplay _ s)
  | ret dc => exact answersChanging_execRet dc s
  | jp nnn => exact answersChanging_execJp nnn s
  | call nnn => exact answersChanging_execCall nnn s
  | seImm | sneImm | seReg | sneReg => exact hnext (onlyChanges_skipIf _ s)
  | jpV0 nnn => exact hnext (onlyChanges_setPc _ s)
  | ldImm | addImm | ldReg | orReg | andReg | xorReg | ldVxDt => exact hnext (onlyChanges_setReg _ _ s)
  | addReg | subReg | shr | subn | shl => exact hnext (onlyChanges_writeResultFlag _ _ _ s)
  | rnd x nn => exact hnext (onlyChanges_rndWith _ x nn s)
  | ldI | addIVx | ldFVx => exact hnext (onlyChanges_setI _ s)
  | drw x y n => exact answersChanging_execDrw x y n s
  | skp x dc => exact answersChanging_execSkp x dc s
  | sknp x dc => exact answersChanging_execSknp x dc s
  | ldVxK x dc => exact hnext (onlyChanges_setWait _ s)
  | ldDtVx x => exact hnext (onlyChanges_setDT _ s)
  | ldStVx x dc => exact hnext (onlyChanges_setST _ s)
  | ldBVx x dc => exact answersChanging_execLdBVx x dc s
  | ldMemVx x => exact answersChanging_execLdMemVx x s
  | ldVxMem x => exact answersChanging_execLdVxMem x s

/-! ### The writers of each part -/

theorem mem_writer (h : .mem ∈ writtenParts i) : (∃ x dc, i = .ldBVx x dc) ∨ ∃ x, i = .ldMemVx x := by
  cases i with
  | ldBVx | ldMemVx => simp
  | _ => simp [writtenParts] at h

theorem addr_writer (h : .addr ∈ writtenParts i) : (∃ n, i = .ldI n) ∨ (∃ x dc, i = .addIVx x dc) ∨
    (∃ x dc, i = .ldFVx x dc) ∨ (∃ x, i = .ldMemVx x) ∨ ∃ x, i = .ldVxMem x := by
  cases i with
  | ldI | addIVx | ldFVx | ldMemVx | ldVxMem => simp
  | _ => simp [writtenParts] at h

theorem stack_writer (h : .stack ∈ writtenParts i) : (∃ n, i = .call n) ∨ ∃ dc, i = .ret dc := by
  cases i with
  | call | ret => simp
  | _ => simp [writtenParts] at h

theorem DT_writer (h : .DT ∈ writtenParts i) : ∃ x, i = .ldDtVx x := by
  cases i with
  | ldDtVx => simp
  | _ => simp [writtenParts] at h

theorem ST_writer (h : .ST ∈ writtenParts i) : ∃ x dc, i = .ldStVx x dc := by
  cases i with
  | ldStVx => simp
  | _ => simp [writtenParts] at h

theorem display_writer (h : .display ∈ writtenParts i) : (∃ dc, i = .cls dc) ∨ ∃ x y n, i = .drw x y n := by
  cases i with
  | cls | drw => simp
  | _ => simp [writtenParts] at h

theorem wait_writer (h : .wait ∈ writtenParts i) : ∃ x dc, i = .ldVxK x dc := by
  cases i with
  | ldVxK => simp
  | _ => simp [writtenParts] at h

theorem keys_not_mem_writtenParts (i : Instr) : .keys ∉ writtenParts i := by
  cases i <;> simp [writtenParts]

theorem params_not_mem_writtenParts (i : Instr) : .params ∉ writtenParts i := by
  cases i <;> simp [writtenParts]

/-- Settles O50: a part that differs is one that the instruction may write. -/
theorem writersAreTheListedInstructions : Obligations.WritersAreTheListedInstructions := by
  intro i s t h
  obtain ⟨hmem, -, hI, -, hstack, hDT, hST, hdisplay, hkeys, hwait, -, hparams, -⟩ := answersChanging_exec i s t h
  have hmem : t.mem ≠ s.mem → .mem ∈ writtenParts i := not_imp_comm.1 fun hnot => (hmem hnot).2
  exact ⟨fun hne => mem_writer (hmem hne), fun hne => addr_writer (not_imp_comm.1 hI hne),
    fun hne => stack_writer (not_imp_comm.1 hstack hne), fun hne => DT_writer (not_imp_comm.1 hDT hne),
    fun hne => ST_writer (not_imp_comm.1 hST hne), fun hne => display_writer (not_imp_comm.1 hdisplay hne),
    fun hne => wait_writer (not_imp_comm.1 hwait hne), hkeys (keys_not_mem_writtenParts i),
    hparams (params_not_mem_writtenParts i)⟩

/-! ### The writers of the flag register -/

/-- A write that changes a register names it. -/
theorem eq_of_reg_setReg_ne {x q : RegIdx} {v : Byte} (h : (s.setReg x v).reg q ≠ s.reg q) : x = q := by
  by_contra hne
  rw [State.reg_setReg, if_neg (Ne.symm hne)] at h
  exact h rfl

/-- A block load reaches the flag register only when X is 15. -/
theorem eq_flag_of_execLdVxMem_ne {x : RegIdx} (h : execLdVxMem x s = .next t) (hne : t.reg 15 ≠ s.reg 15) :
    x = 15 := by
  obtain hfit | hout := Nat.lt_or_ge (s.I.toNat + x.val) 4096
  · cases (execLdVxMem_eq_next x hfit).symm.trans h
    have hload := getElem_load_readBytes s.regs s.mem s.I.toNat (x.val + 1) 15
    by_contra hx
    have hbelow : ¬(15 : RegIdx).val < x.val + 1 := by
      simp only [Fin.ext_iff] at hx
      omega
    exact hne (hload.trans (if_neg hbelow))
  · cases ((execLdVxMem_eq_raise x hout).trans (raise_eq _ _ s)).symm.trans h
    exact absurd rfl hne

/-- Settles O52: the instructions that write a register and no flag change the register they name, and those outside
the list write no register. -/
theorem flagWritersAreTheListedInstructions : Obligations.FlagWritersAreTheListedInstructions := by
  intro i s t h hne
  obtain ⟨-, hregs, -⟩ := answersChanging_exec i s t h
  have hwrites : .regs ∈ writtenParts i := not_imp_comm.1 (fun hnot => hregs hnot 15) hne
  cases i with
  | addReg | subReg | shr | subn | shl | drw => simp
  | ldImm | addImm | rnd | ldReg | orReg | andReg | xorReg | ldVxDt =>
    cases h
    obtain rfl := eq_of_reg_setReg_ne hne
    simp
  | ldVxMem x =>
    obtain rfl := eq_flag_of_execLdVxMem_ne h hne
    simp
  | _ => simp [writtenParts] at hwrites

end Sys2Proof.Machine
end
